-- ==== Sys2Proof/Word.lean ====
section
/-!
DEFINITION. The two word types of the machine (00_scope.md rule R5): data are unsigned 32-bit
vectors, instructions are unsigned 16-bit vectors. There is no signed quantity (R6).
-/

namespace Sys2Proof

/-- A data word, `u32` (`XLEN = PCW = 32`, R5): `PC`, `X`, `Y`, `PINS`, `PINDIRS` and the value of a
shift register. -/
abbrev Word := BitVec 32

/-- An instruction word, `u16` (`IW = 16`, R5, R45). -/
abbrev OpWord := BitVec 16

end Sys2Proof
end

