-- ==== Sys2Proof/Syntax.lean ====
section
/-!
DEFINITION. The instructions: one constructor for each row of spec/opcode_table.json. The eight
conditions of a JMP and the eight destinations of an OUT are the closed enumerations of
30_encoding.md rule R57; the sixteen instructions are the two families spelled out (R58). The six
rows flagged illegal, one for each reserved class (R47, R56), are constructors too: their meaning
is the fault of 60_exceptions.md rule R142.
-/

namespace Sys2Proof

/-- The condition of a JMP, in the order and under the names of R50. -/
inductive Condition where
  | always
  | xZero
  | xDecNonzero
  | yZero
  | yDecNonzero
  | xNeY
  | pin
  | osrNotEmpty
  deriving DecidableEq, Repr

/-- The destination of an OUT, in the order of R52. -/
inductive OutDestination where
  | pins
  | x
  | y
  | null
  | pindirs
  | pc
  | isr
  | exec
  deriving DecidableEq, Repr

/-- The decoded instructions. `addr` is the five-bit absolute target of a JMP (R54); `n` is the
effective bit count of an OUT, 1 to 32, the field's 0 already read as 32 (R53); `rest` is the
13 bits below the class of a reserved word, kept because the fault passes the whole word (R142).
The delay bits are not carried (R48). -/
inductive Instr where
  /-- `jmp <addr>` (R82) -/
  | jmp (addr : BitVec 5)
  /-- `jmp !x, <addr>` (R83) -/
  | jmpNotX (addr : BitVec 5)
  /-- `jmp x--, <addr>` (R84) -/
  | jmpXDec (addr : BitVec 5)
  /-- `jmp !y, <addr>` (R85) -/
  | jmpNotY (addr : BitVec 5)
  /-- `jmp y--, <addr>` (R86) -/
  | jmpYDec (addr : BitVec 5)
  /-- `jmp x!=y, <addr>` (R87) -/
  | jmpXNeY (addr : BitVec 5)
  /-- `jmp pin, <addr>` (R88) -/
  | jmpPin (addr : BitVec 5)
  /-- `jmp !osre, <addr>` (R89) -/
  | jmpNotOsre (addr : BitVec 5)
  /-- `out pins, <n>` (R101) -/
  | outPins (n : Nat)
  /-- `out x, <n>` (R102) -/
  | outX (n : Nat)
  /-- `out y, <n>` (R103) -/
  | outY (n : Nat)
  /-- `out null, <n>` (R104) -/
  | outNull (n : Nat)
  /-- `out pindirs, <n>` (R105) -/
  | outPindirs (n : Nat)
  /-- `out pc, <n>` (R106) -/
  | outPc (n : Nat)
  /-- `out isr, <n>` (R107) -/
  | outIsr (n : Nat)
  /-- `out exec, <n>` (R108) -/
  | outExec (n : Nat)
  /-- a word of the reserved class 0b001 (R56, R142) -/
  | reserved001 (rest : BitVec 13)
  /-- a word of the reserved class 0b010 (R56, R142) -/
  | reserved010 (rest : BitVec 13)
  /-- a word of the reserved class 0b100 (R56, R142) -/
  | reserved100 (rest : BitVec 13)
  /-- a word of the reserved class 0b101 (R56, R142) -/
  | reserved101 (rest : BitVec 13)
  /-- a word of the reserved class 0b110 (R56, R142) -/
  | reserved110 (rest : BitVec 13)
  /-- a word of the reserved class 0b111 (R56, R142) -/
  | reserved111 (rest : BitVec 13)
  deriving DecidableEq, Repr

/-- The JMP with condition `c`: the decoded form `Jmp{condition, address}` of R49. -/
def Instr.ofJmp (c : Condition) (addr : BitVec 5) : Instr :=
  match c with
  | .always => .jmp addr
  | .xZero => .jmpNotX addr
  | .xDecNonzero => .jmpXDec addr
  | .yZero => .jmpNotY addr
  | .yDecNonzero => .jmpYDec addr
  | .xNeY => .jmpXNeY addr
  | .pin => .jmpPin addr
  | .osrNotEmpty => .jmpNotOsre addr

/-- The OUT with destination `d`: the decoded form `Out{destination, n}` of R51, R55. -/
def Instr.ofOut (d : OutDestination) (n : Nat) : Instr :=
  match d with
  | .pins => .outPins n
  | .x => .outX n
  | .y => .outY n
  | .null => .outNull n
  | .pindirs => .outPindirs n
  | .pc => .outPc n
  | .isr => .outIsr n
  | .exec => .outExec n

end Sys2Proof
end

