-- ==== Sys2Proof/WellFormed.lean ====
section
/-!
DEFINITION. Which instructions the encoding admits. The one field whose type is wider than its
encoding is the bit count of an OUT: `1 <= n <= 32` (30_encoding.md rule R53). A JMP address and the
rest of a reserved word are vectors of the width the encoding gives them.
-/

namespace Sys2Proof

/-- An effective bit count the field can encode (R53). -/
def wellFormedCount (n : Nat) : Bool := decide (1 ≤ n) && decide (n ≤ 32)

/-- The instruction is one that some word decodes to. -/
def Instr.wellFormed (i : Instr) : Bool :=
  match i with
  | .jmp _ => true
  | .jmpNotX _ => true
  | .jmpXDec _ => true
  | .jmpNotY _ => true
  | .jmpYDec _ => true
  | .jmpXNeY _ => true
  | .jmpPin _ => true
  | .jmpNotOsre _ => true
  | .outPins n => wellFormedCount n
  | .outX n => wellFormedCount n
  | .outY n => wellFormedCount n
  | .outNull n => wellFormedCount n
  | .outPindirs n => wellFormedCount n
  | .outPc n => wellFormedCount n
  | .outIsr n => wellFormedCount n
  | .outExec n => wellFormedCount n
  | .reserved001 _ => true
  | .reserved010 _ => true
  | .reserved100 _ => true
  | .reserved101 _ => true
  | .reserved110 _ => true
  | .reserved111 _ => true

end Sys2Proof
end

