-- ==== Sys2Proof/Decode.lean ====
section
/-!
DEFINITION. The decoder and the encoder (30_encoding.md). Decoding is a function of the 16 bits alone
(R45) and is total: each of the 2^16 words is one of the 22 rows of the opcode table. `decode` names
the row; `decodeResult` is the decoder's contract of R55, which rejects a reserved class by name.
-/

namespace Sys2Proof

/-! ## The four fields (R46) -/

/-- `ins[15:13]`, the class (R46). -/
def opClass (w : OpWord) : BitVec 3 := w.extractLsb' 13 3

/-- `ins[12:8]`, the delay bits: decoded by no rule (R46, R48). -/
def opDelay (w : OpWord) : BitVec 5 := w.extractLsb' 8 5

/-- `ins[7:5]`, the condition of a JMP or the destination of an OUT (R46). -/
def opSel (w : OpWord) : BitVec 3 := w.extractLsb' 5 3

/-- `ins[4:0]`, the address of a JMP or the bit count of an OUT (R46). -/
def opLo (w : OpWord) : BitVec 5 := w.extractLsb' 0 5

/-- `ins[12:0]`, all that lies below the class. -/
def opRest (w : OpWord) : BitVec 13 := w.extractLsb' 0 13

/-- The word with these four fields (R46). -/
def ofFields (cls : BitVec 3) (dly : BitVec 5) (sel : BitVec 3) (lo : BitVec 5) : OpWord :=
  cls ++ dly ++ sel ++ lo

/-! ## The field codes -/

/-- The number of a condition (R50). PRESUMED by the spec itself, log entry 5. -/
def conditionCode (c : Condition) : BitVec 3 :=
  match c with
  | .always => 0b000#3
  | .xZero => 0b001#3
  | .xDecNonzero => 0b010#3
  | .yZero => 0b011#3
  | .yDecNonzero => 0b100#3
  | .xNeY => 0b101#3
  | .pin => 0b110#3
  | .osrNotEmpty => 0b111#3

/-- The condition of a selector: all eight values are defined (R50). -/
def conditionOf (sel : BitVec 3) : Condition :=
  match sel.toFin with
  | 0 => .always
  | 1 => .xZero
  | 2 => .xDecNonzero
  | 3 => .yZero
  | 4 => .yDecNonzero
  | 5 => .xNeY
  | 6 => .pin
  | 7 => .osrNotEmpty

/-- The number of a destination (R52, 90_conflicts.md C1). X, PINDIRS and ISR are the source's; the
other five are PRESUMED by the spec itself, log entry 6. -/
def destinationCode (d : OutDestination) : BitVec 3 :=
  match d with
  | .pins => 0b000#3
  | .x => 0b001#3
  | .y => 0b010#3
  | .null => 0b011#3
  | .pindirs => 0b100#3
  | .pc => 0b101#3
  | .isr => 0b110#3
  | .exec => 0b111#3

/-- The destination of a selector: all eight values are defined (R52). -/
def destinationOf (sel : BitVec 3) : OutDestination :=
  match sel.toFin with
  | 0 => .pins
  | 1 => .x
  | 2 => .y
  | 3 => .null
  | 4 => .pindirs
  | 5 => .pc
  | 6 => .isr
  | 7 => .exec

/-- The effective bit count: a field of 0 means 32 (R53). The conversion is done here once; nothing
after the decoder sees the raw field (90_conflicts.md C9). -/
def effectiveCount (lo : BitVec 5) : Nat := if lo = 0#5 then 32 else lo.toNat

/-- The bit-count field of an effective count: `n mod 32` (R61). -/
def countField (n : Nat) : BitVec 5 := BitVec.ofNat 5 n

/-! ## The decoder -/

/-- The row of the opcode table a word belongs to, with its operands (R47, R55, R58). The delay bits
of a JMP and of an OUT are dropped (R48); a reserved word keeps all its bits (R142). -/
def decode (w : OpWord) : Instr :=
  match (opClass w).toFin with
  | 0 => Instr.ofJmp (conditionOf (opSel w)) (opLo w)
  | 1 => .reserved001 (opRest w)
  | 2 => .reserved010 (opRest w)
  | 3 => Instr.ofOut (destinationOf (opSel w)) (effectiveCount (opLo w))
  | 4 => .reserved100 (opRest w)
  | 5 => .reserved101 (opRest w)
  | 6 => .reserved110 (opRest w)
  | 7 => .reserved111 (opRest w)

/-- Why the decoder rejects a word. -/
inductive DecodeError where
  /-- `DecodeError::UnknownOpcode`: the class is reserved; the word is passed on (R55, R142). -/
  | unknownOpcode (ins : OpWord)
  deriving DecidableEq, Repr

/-- The row is one of the six reserved classes (R56). -/
def Instr.reserved (i : Instr) : Bool :=
  match i with
  | .reserved001 _ => true
  | .reserved010 _ => true
  | .reserved100 _ => true
  | .reserved101 _ => true
  | .reserved110 _ => true
  | .reserved111 _ => true
  | .jmp _ => false
  | .jmpNotX _ => false
  | .jmpXDec _ => false
  | .jmpNotY _ => false
  | .jmpYDec _ => false
  | .jmpXNeY _ => false
  | .jmpPin _ => false
  | .jmpNotOsre _ => false
  | .outPins _ => false
  | .outX _ => false
  | .outY _ => false
  | .outNull _ => false
  | .outPindirs _ => false
  | .outPc _ => false
  | .outIsr _ => false
  | .outExec _ => false

/-- `decode(opcode: u16) -> Result<Instruction, DecodeError>` (R55): a word of a reserved class
raises `UnknownOpcode(ins)`, every other word gives its instruction. -/
def decodeResult (w : OpWord) : Except DecodeError Instr :=
  if (decode w).reserved then .error (.unknownOpcode w) else .ok (decode w)

/-! ## The encoder -/

/-- `enc_jmp(cond, addr)` with the delay bits zero (R49, R61). -/
def encodeJmp (c : Condition) (addr : BitVec 5) : OpWord :=
  ofFields 0b000#3 0#5 (conditionCode c) addr

/-- `enc_out(dest, n)` with the delay bits zero (R51, R61). -/
def encodeOut (d : OutDestination) (n : Nat) : OpWord :=
  ofFields 0b011#3 0#5 (destinationCode d) (countField n)

/-- The word of a reserved class with these 13 lower bits (R47, R56). -/
def encodeReserved (cls : BitVec 3) (rest : BitVec 13) : OpWord := cls ++ rest

/-- The word of an instruction; every instruction is exactly one word (R45). -/
def encode (i : Instr) : OpWord :=
  match i with
  | .jmp addr => encodeJmp .always addr
  | .jmpNotX addr => encodeJmp .xZero addr
  | .jmpXDec addr => encodeJmp .xDecNonzero addr
  | .jmpNotY addr => encodeJmp .yZero addr
  | .jmpYDec addr => encodeJmp .yDecNonzero addr
  | .jmpXNeY addr => encodeJmp .xNeY addr
  | .jmpPin addr => encodeJmp .pin addr
  | .jmpNotOsre addr => encodeJmp .osrNotEmpty addr
  | .outPins n => encodeOut .pins n
  | .outX n => encodeOut .x n
  | .outY n => encodeOut .y n
  | .outNull n => encodeOut .null n
  | .outPindirs n => encodeOut .pindirs n
  | .outPc n => encodeOut .pc n
  | .outIsr n => encodeOut .isr n
  | .outExec n => encodeOut .exec n
  | .reserved001 rest => encodeReserved 0b001#3 rest
  | .reserved010 rest => encodeReserved 0b010#3 rest
  | .reserved100 rest => encodeReserved 0b100#3 rest
  | .reserved101 rest => encodeReserved 0b101#3 rest
  | .reserved110 rest => encodeReserved 0b110#3 rest
  | .reserved111 rest => encodeReserved 0b111#3 rest

/-! ## The words of the opcode table -/

/-- The instruction word whose low `nbits` bits are those of `w`, the bits above them zero. -/
def tableWord (nbits w : Nat) : OpWord := BitVec.ofNat 16 (w % 2 ^ nbits)

/-- What `decode` reads from a row's word, numbered as spec/opcode_table.json numbers it. Every
instruction is one 16-bit word (R45), so a longer row is none of this machine's. -/
def decodeTableWord (nbits w : Nat) : Option Instr :=
  if nbits ≤ 16 then some (decode (tableWord nbits w)) else none

end Sys2Proof
end

