-- ==== Sys2Proof/Config.lean ====
section
/-!
DEFINITION. What the host fixes for a run (10_state.md rules R20, R27) and the one parameter the
spec leaves open (00_scope.md rule R5).
-/

namespace Sys2Proof

/-- The configuration input of a run (R20): supplied by the host before the first step, constant
through the run, read by no instruction but those named, written by none. -/
structure RunConfig where
  /-- The pin `JMP PIN` tests, or none (`Option<u5>`, R20, R88). -/
  jmpPin : Option (BitVec 5)
  /-- The OSR shift direction: true is right, least significant bit first (R20, R66). -/
  shiftOsrRight : Bool
  deriving DecidableEq, Repr

/-- The configuration the host gets when it supplies none (R20, R27): no pin, right shift. -/
def RunConfig.default : RunConfig := { jmpPin := none, shiftOsrRight := true }

/-- `SHIFT_ISR_RIGHT` (R5, R71): open in the spec and used by no instruction. It has no body, so
nothing can be proved of its value. DESIGN CHOICE, log entry 19. -/
opaque Config.shiftIsrRight : Bool

end Sys2Proof
end

