-- ==== Sys2Proof/Machine/State.lean ====
section
/-!
DEFINITION. The state, the ways a step can stop, and the state after reset.

The seven fields of 10_state.md rule R10 are the whole of the architectural state (R24: nothing is
hidden): they are ArchState, which is what the host is given of the machine (R11, R20). Beside them
State holds the two inputs of a run that the step reads, the program (20_memory.md rule R30) and the
configuration (R20): the spec makes them arguments of the step (43_sequencer.md rule R120), and the
interface's step has the state as its one argument. Log entries 1 and 3.
-/

namespace Sys2Proof.Machine

/-- A shift register `(value, count)` (R22, R65): the count is the bits already shifted out (OSR) or
in (ISR), `0..32` in every legal state (R18). -/
@[ext]
structure ShiftRegister where
  value : Word
  count : Nat
  deriving DecidableEq, Repr

/-- The architectural state: exactly seven fields (R10). It is a value, and two of them are equal
exactly when the seven fields are (R11). The default of a field is its reset value, which a field
the host does not supply takes (R25, R26). -/
@[ext]
structure ArchState where
  /-- `PC`, the index of the next word to fetch (R14) -/
  pc : Word := 0#32
  /-- `X`, scratch register (R12) -/
  x : Word := 0#32
  /-- `Y`, scratch register (R12) -/
  y : Word := 0#32
  /-- `PINS`, bit `i` the level of pin `i` (R23) -/
  pins : Word := 0#32
  /-- `PINDIRS`, bit `i` the direction of pin `i`; the polarity is open and nothing reads it (R23) -/
  pindirs : Word := 0#32
  /-- `OSR` (R22) -/
  osr : ShiftRegister := { value := 0#32, count := 0 }
  /-- `ISR` (R22) -/
  isr : ShiftRegister := { value := 0#32, count := 0 }
  deriving DecidableEq, Repr

/-- The machine between two steps: the architectural state and the two inputs of its run. -/
@[ext]
structure State extends ArchState where
  /-- The instruction memory, word 0 first; its length is `L` (R30). An input of the run. -/
  program : List OpWord
  /-- The configuration input of the run (R20). -/
  cfg : RunConfig
  deriving DecidableEq, Repr

/-- The three faults, and nothing else (60_exceptions.md rule R140). Each ends the run; none writes
the state (R145, R146). -/
inductive Fault where
  /-- Raised by the fetch of a step whose `PC >= L`, with that `PC` (R31, R141). The spec's own
  fault, so safe. -/
  | programCounterOutOfRange (pc : Word)
  /-- Raised by the decode of a word of a reserved class, with that word (R56, R142). The spec's own
  fault, so safe. -/
  | unknownOpcode (ins : OpWord)
  /-- Raised by `JMP PIN` executed with no pin configured (R88, R143). The spec's own fault, so
  safe. -/
  | missingPin
  deriving DecidableEq, Repr

/-- The two families of R140. -/
inductive FaultFamily where
  | decodeError
  | configError
  deriving DecidableEq, Repr

/-- Why the model gives a step no meaning. -/
inductive Refusal where
  /-- Raised by an arm of `exec` whose instruction has no meaning yet; no arm of this model is one.
  Safe. -/
  | notModelled (mnemonic : String)
  /-- Raised by `step` on a state with a shift count above 32, which the spec calls not legal and to
  which it gives no meaning (R26, 92_eei_decisions.md D20). No run from a legal state reaches one.
  Safe. -/
  | illegalState
  deriving DecidableEq, Repr

/-- The three outcomes of a step of this machine. -/
abbrev StepOutcome := Host.Outcome State Fault Refusal

/-- The machine right after reset (R25, R165): every field zero, the default configuration (R27). The
program is the host's and none is supplied, so it has no word (log entry 2). -/
def State.reset : State :=
  { pc := 0#32, x := 0#32, y := 0#32, pins := 0#32, pindirs := 0#32,
    osr := { value := 0#32, count := 0 }, isr := { value := 0#32, count := 0 },
    program := [], cfg := RunConfig.default }

end Sys2Proof.Machine
end

