-- ==== Sys2Proof/Machine/Operands.lean ====
section
/-!
DEFINITION. The operand forms and the bit arithmetic of 00_scope.md rule R6 and 40_shift_datapath.md
rule R74.
-/

namespace Sys2Proof.Machine

/-- `mask(n) = 2^n - 1`, for `0 <= n <= 32` (R6). -/
def mask (n : Nat) : Word := BitVec.ofNat 32 (2 ^ n - 1)

/-- `not32(v) = 0xFFFF_FFFF - v` (R6). -/
def not32 (v : Word) : Word := 0xFFFF_FFFF#32 - v

/-- `shl32(v, n) = (v * 2^n) mod 2^32`; 0 at `n = 32` (R6). -/
def shl32 (v : Word) (n : Nat) : Word := v <<< n

/-- `shr32(v, n) = floor(v / 2^n)`; 0 at `n = 32` (R6). -/
def shr32 (v : Word) (n : Nat) : Word := v >>> n

/-- The target of a JMP, `zext_32(addr)`: absolute, unscaled, `0..31` (R54). -/
def jmpTarget (addr : BitVec 5) : Word := addr.setWidth 32

/-- `PC + 1` modulo `2^32` (R15, R74). -/
def nextPc (pc : Word) : Word := pc + 1#32

/-- `old` with its low `n` bits replaced by `ext`: what `OUT PINS` and `OUT PINDIRS` write (R101,
R105). -/
def replaceLow (old ext : Word) (n : Nat) : Word := (old &&& not32 (mask n)) ||| ext

/-- Bit `p` of a pin word, `PINS[p]` (R88). -/
def pinLevel (pins : Word) (p : BitVec 5) : Bool := pins.getLsbD p.toNat

end Sys2Proof.Machine
end

