-- ==== Sys2Proof/Machine/Shift.lean ====
section
/-!
DEFINITION. The shift-register primitives of 40_shift_datapath.md. Each takes a register and gives a
new one; none can fault (R65).
-/

namespace Sys2Proof.Machine

/-- `min(32, count + n)`: the count saturates at 32 (R69). -/
def saturate (count n : Nat) : Nat := min 32 (count + n)

/-- `shift_out(sr, n, right) -> (ext, sr')` for `1 <= n <= 32` (R66): the bottom `n` bits leave on a
right shift (R67), the top `n` bits on a left shift, arriving right-aligned (R68). The bits come
from `value` as it stands, whatever the count (R70). -/
def shiftOut (sr : ShiftRegister) (n : Nat) (right : Bool) : Word × ShiftRegister :=
  match right with
  | true =>
    (sr.value &&& mask n, { value := shr32 sr.value n, count := saturate sr.count n })
  | false =>
    (shr32 sr.value (32 - n), { value := shl32 sr.value n, count := saturate sr.count n })

/-- `shift_in(sr, src, n, right) -> sr'` for `1 <= n <= 32` (R71): the new bits enter at the bottom on
a left shift and at the top on a right shift. No instruction calls it. The two formulas are
PRESUMED by the spec itself, log entry 19. -/
def shiftIn (sr : ShiftRegister) (src : Word) (n : Nat) (right : Bool) : ShiftRegister :=
  match right with
  | true =>
    { value := shr32 sr.value n ||| shl32 (src &&& mask n) (32 - n), count := saturate sr.count n }
  | false =>
    { value := shl32 sr.value n ||| (src &&& mask n), count := saturate sr.count n }

/-- `shift_in` in the direction `SHIFT_ISR_RIGHT`, which the spec leaves open (R71). -/
def shiftInConfigured (sr : ShiftRegister) (src : Word) (n : Nat) : ShiftRegister :=
  shiftIn sr src n Config.shiftIsrRight

end Sys2Proof.Machine
end

