-- ==== Sys2Proof/Machine/Flags.lean ====
section
/-!
DEFINITION. The predicates a condition is computed from. The machine has no flag register and no
stored condition code: each predicate is computed in the step that uses it (10_state.md rule R17).
-/

namespace Sys2Proof.Machine

/-- The threshold `JMP !OSRE` sees, the constant 32 (R5, R89, 92_eei_decisions.md D26). -/
def osrEmptyThreshold : Nat := 32

/-- `is_empty(sr, threshold) = (sr.count >= threshold)` (R72). -/
def isEmpty (sr : ShiftRegister) (threshold : Nat) : Bool := decide (threshold ≤ sr.count)

/-- `is_full(sr) = (sr.count == 0)`, for a register used for output; no instruction reads it (R73). -/
def isFull (sr : ShiftRegister) : Bool := decide (sr.count = 0)

/-- `osr_empty` (R19). -/
def State.osrEmpty (s : State) : Bool := isEmpty s.osr osrEmptyThreshold

/-- `osr_full` (R19). -/
def State.osrFull (s : State) : Bool := isFull s.osr

/-- The state is legal: both counts are in `0..32` (R18, R26). -/
def State.legal (s : State) : Bool := decide (s.osr.count ≤ 32) && decide (s.isr.count ≤ 32)

end Sys2Proof.Machine
end

