-- ==== Sys2Proof/Machine/Ops.lean ====
section
/-!
DEFINITION. The named operations over the registers and the instruction memory, raising a fault, and
the two shared executors: every JMP is `jump` on its condition (41_jmp.md rule R81), every OUT is
`shiftOutTo` on its destination (42_out.md rule R100).
-/

namespace Sys2Proof.Machine

/-! ## Register writes (R6: `NAME <- v`; a register a rule does not write keeps its value) -/

/-- `PC <- v` -/
def State.setPc (s : State) (v : Word) : State := { s with pc := v }

/-- `X <- v` -/
def State.setX (s : State) (v : Word) : State := { s with x := v }

/-- `Y <- v` -/
def State.setY (s : State) (v : Word) : State := { s with y := v }

/-- `PINS <- v` -/
def State.setPins (s : State) (v : Word) : State := { s with pins := v }

/-- `PINDIRS <- v` -/
def State.setPindirs (s : State) (v : Word) : State := { s with pindirs := v }

/-- `OSR <- r` -/
def State.setOsr (s : State) (r : ShiftRegister) : State := { s with osr := r }

/-- `ISR <- r` -/
def State.setIsr (s : State) (r : ShiftRegister) : State := { s with isr := r }

/-- `PC <- (PC + 1) mod 2^32` (R15) -/
def State.advancePc (s : State) : State := s.setPc (nextPc s.pc)

/-! ## The instruction memory (20_memory.md) -/

/-- The program length is one the spec admits, `L <= 2^32` (R5). A program is a list of words, so
equal programs are equal data with no further form to keep (log entry 1). -/
def programWf (program : List OpWord) : Bool := decide (program.length ≤ 2 ^ 32)

/-- `MemRead(addr, 16)`: the word at word index `addr`; an index `addr >= L` faults (R31). It is the
only access there is (R32, R36), and it changes nothing. -/
def memRead (program : List OpWord) (addr : Word) : Except Fault OpWord :=
  match program[addr.toNat]? with
  | some w => .ok w
  | none => .error (.programCounterOutOfRange addr)

/-- `ins <- MemRead(PC, 16)`, the fetch of a step (R31). -/
def State.fetch (s : State) : Except Fault OpWord := memRead s.program s.pc

/-- The program with word `w` at index `k`. No instruction writes the instruction memory (R32, R41):
this is the host composing a program before a run. A program that ends below `k` is filled up to it
with zero words (log entry 2). -/
def placeWord : List OpWord → Nat → OpWord → List OpWord
  | [], 0, w => [w]
  | [], k + 1, w => 0#16 :: placeWord [] k w
  | _ :: rest, 0, w => w :: rest
  | v :: rest, k + 1, w => v :: placeWord rest k w

/-! ## Faults (60_exceptions.md) -/

/-- Fault entry (R145): no register is written, nothing is saved, there is no handler and no mode to
enter; the fault goes to the host in place of the next state and the run is over (R146). There is
no return from a fault (R147), so no operation stands beside this one. -/
def raiseFault (f : Fault) : StepOutcome := .fault f

/-- The number the spec gives a fault, 0 being no fault (R148). DESIGN CHOICE of the spec, log
entry 20. -/
def Fault.code (f : Fault) : BitVec 2 :=
  match f with
  | .programCounterOutOfRange _ => 1#2
  | .unknownOpcode _ => 2#2
  | .missingPin => 3#2

/-- The family of a fault (R140); `ProgramCounterOutOfRange` is filed under `DecodeError` although
the fetch raises it (R141). -/
def Fault.family (f : Fault) : FaultFamily :=
  match f with
  | .programCounterOutOfRange _ => .decodeError
  | .unknownOpcode _ => .decodeError
  | .missingPin => .configError

/-! ## JMP (41_jmp.md) -/

/-- Branch when a register is not zero and then decrement it; a zero register is not decremented and
the branch is not taken (R84, 90_conflicts.md C3). -/
def decNonzero (old : Word) (write : Word → State) (s : State) : Bool × State :=
  if old = 0#32 then (false, s) else (true, write (old - 1#32))

/-- The condition evaluator, `evaluate(condition, state, config) -> (bool, updated_state)` (R80). It
fails only for `PIN` with no pin configured (R88). -/
def evaluate (c : Condition) (s : State) : Except Fault (Bool × State) :=
  match c with
  | .always => .ok (true, s)
  | .xZero => .ok (decide (s.x = 0#32), s)
  | .xDecNonzero => .ok (decNonzero s.x s.setX s)
  | .yZero => .ok (decide (s.y = 0#32), s)
  | .yDecNonzero => .ok (decNonzero s.y s.setY s)
  | .xNeY => .ok (decide (s.x ≠ s.y), s)
  | .pin =>
    match s.cfg.jmpPin with
    | none => .error .missingPin
    | some p => .ok (pinLevel s.pins p, s)
  | .osrNotEmpty => .ok (!s.osrEmpty, s)

/-- Every JMP (R81): the evaluator's update, and `PC` to the target if the condition holds, to
`PC + 1` if not. The target is not checked against the program length. -/
def jump (c : Condition) (addr : BitVec 5) (s : State) : StepOutcome :=
  match evaluate c s with
  | .error f => raiseFault f
  | .ok (true, s1) => .next (s1.setPc (jmpTarget addr))
  | .ok (false, s1) => .next s1.advancePc

/-! ## OUT (42_out.md) -/

/-- What the destination of an OUT receives, and where `PC` goes: the destination's write and
`PC + 1`, but for `PC` itself, which takes the extracted value (R100 to R108). `NULL` and `EXEC`
receive nothing (R104, R108). -/
def route (d : OutDestination) (ext : Word) (n : Nat) (s : State) : State :=
  match d with
  | .pins => (s.setPins (replaceLow s.pins ext n)).advancePc
  | .x => (s.setX ext).advancePc
  | .y => (s.setY ext).advancePc
  | .null => s.advancePc
  | .pindirs => (s.setPindirs (replaceLow s.pindirs ext n)).advancePc
  | .pc => s.setPc ext
  | .isr => (s.setIsr { value := ext, count := n }).advancePc
  | .exec => s.advancePc

/-- Every OUT (R100): `n` bits leave the OSR in the configured direction, the extracted value is
routed, the OSR keeps what is left. It never waits and never refills (R109), and cannot fault. -/
def shiftOutTo (d : OutDestination) (n : Nat) (s : State) : StepOutcome :=
  let out := shiftOut s.osr n s.cfg.shiftOsrRight
  .next ((route d out.1 n s).setOsr out.2)

/-! ## Reserved classes -/

/-- A word of a reserved class: `UnknownOpcode` with the word (R56, R142). -/
def unknownWord (cls : BitVec 3) (rest : BitVec 13) : StepOutcome :=
  raiseFault (.unknownOpcode (encodeReserved cls rest))

end Sys2Proof.Machine
end

