-- ==== Sys2Proof/Machine/Jmp.lean ====
section
/-!
DEFINITION. The eight JMP instructions (41_jmp.md rules R82 to R89).
-/

namespace Sys2Proof.Machine

/-- `JMP`, always taken (R82). -/
def execJmp (addr : BitVec 5) (s : State) : StepOutcome := jump .always addr s

/-- `JMP !X`: taken when `X` is zero (R83). -/
def execJmpNotX (addr : BitVec 5) (s : State) : StepOutcome := jump .xZero addr s

/-- `JMP X--`: taken when `X` is not zero, which is then decremented (R84). -/
def execJmpXDec (addr : BitVec 5) (s : State) : StepOutcome := jump .xDecNonzero addr s

/-- `JMP !Y`: taken when `Y` is zero (R85). -/
def execJmpNotY (addr : BitVec 5) (s : State) : StepOutcome := jump .yZero addr s

/-- `JMP Y--`: taken when `Y` is not zero, which is then decremented (R86). -/
def execJmpYDec (addr : BitVec 5) (s : State) : StepOutcome := jump .yDecNonzero addr s

/-- `JMP X!=Y`: taken when `X` and `Y` differ (R87). -/
def execJmpXNeY (addr : BitVec 5) (s : State) : StepOutcome := jump .xNeY addr s

/-- `JMP PIN`: taken when the configured pin's bit of `PINS` is 1; `MissingPin` when none is configured
(R88, R143). `PINDIRS` is not consulted. -/
def execJmpPin (addr : BitVec 5) (s : State) : StepOutcome := jump .pin addr s

/-- `JMP !OSRE`: taken when fewer than 32 bits have left the OSR (R89). -/
def execJmpNotOsre (addr : BitVec 5) (s : State) : StepOutcome := jump .osrNotEmpty addr s

end Sys2Proof.Machine
end

