-- ==== Sys2Proof/Machine/Out.lean ====
section
/-!
DEFINITION. The eight OUT instructions (42_out.md rules R101 to R108). `n` is the effective bit count
(30_encoding.md rule R53).
-/

namespace Sys2Proof.Machine

/-- `OUT PINS`: replaces the low `n` bits of `PINS` (R101). -/
def execOutPins (n : Nat) (s : State) : StepOutcome := shiftOutTo .pins n s

/-- `OUT X`: replaces the whole of `X` (R102). -/
def execOutX (n : Nat) (s : State) : StepOutcome := shiftOutTo .x n s

/-- `OUT Y`: replaces the whole of `Y` (R103). -/
def execOutY (n : Nat) (s : State) : StepOutcome := shiftOutTo .y n s

/-- `OUT NULL`: the extracted value is discarded; the OSR is shifted all the same (R104). -/
def execOutNull (n : Nat) (s : State) : StepOutcome := shiftOutTo .null n s

/-- `OUT PINDIRS`: replaces the low `n` bits of `PINDIRS` (R105). -/
def execOutPindirs (n : Nat) (s : State) : StepOutcome := shiftOutTo .pindirs n s

/-- `OUT PC`: a computed jump to the whole extracted value, which is not checked here (R106). -/
def execOutPc (n : Nat) (s : State) : StepOutcome := shiftOutTo .pc n s

/-- `OUT ISR`: assigns the ISR, value and count; it is not shifted into (R107, 90_conflicts.md C4). -/
def execOutIsr (n : Nat) (s : State) : StepOutcome := shiftOutTo .isr n s

/-- `OUT EXEC`: the extracted word is discarded, not executed; the OSR shifts and `PC` advances (R108,
90_conflicts.md C6). -/
def execOutExec (n : Nat) (s : State) : StepOutcome := shiftOutTo .exec n s

end Sys2Proof.Machine
end

