-- ==== Sys2Proof/Machine/Reserved.lean ====
section
/-!
DEFINITION. The six reserved classes (30_encoding.md rule R56): each of their words raises
`UnknownOpcode` (60_exceptions.md rule R142), whatever the state. `step` never reaches these
meanings, since its decoder has raised the same fault already (43_sequencer.md rule R122); they
stand here because the opcode table has the rows.
-/

namespace Sys2Proof.Machine

/-- A word of class 0b001 (R56, R142). -/
def execReserved001 (rest : BitVec 13) (_s : State) : StepOutcome := unknownWord 0b001#3 rest

/-- A word of class 0b010 (R56, R142). -/
def execReserved010 (rest : BitVec 13) (_s : State) : StepOutcome := unknownWord 0b010#3 rest

/-- A word of class 0b100 (R56, R142). -/
def execReserved100 (rest : BitVec 13) (_s : State) : StepOutcome := unknownWord 0b100#3 rest

/-- A word of class 0b101 (R56, R142). -/
def execReserved101 (rest : BitVec 13) (_s : State) : StepOutcome := unknownWord 0b101#3 rest

/-- A word of class 0b110 (R56, R142). -/
def execReserved110 (rest : BitVec 13) (_s : State) : StepOutcome := unknownWord 0b110#3 rest

/-- A word of class 0b111 (R56, R142). -/
def execReserved111 (rest : BitVec 13) (_s : State) : StepOutcome := unknownWord 0b111#3 rest

end Sys2Proof.Machine
end

