-- ==== Sys2Proof/Machine/Dispatch.lean ====
section
/-!
DEFINITION. The executor (41_jmp.md, 42_out.md): one arm per row of spec/opcode_table.json.
-/

namespace Sys2Proof.Machine

def exec (i : Instr) (s : State) : Host.Outcome State Fault Refusal :=
  match i with
  | .jmp addr => Sys2Proof.Machine.execJmp addr s
  | .jmpNotX addr => Sys2Proof.Machine.execJmpNotX addr s
  | .jmpXDec addr => Sys2Proof.Machine.execJmpXDec addr s
  | .jmpNotY addr => Sys2Proof.Machine.execJmpNotY addr s
  | .jmpYDec addr => Sys2Proof.Machine.execJmpYDec addr s
  | .jmpXNeY addr => Sys2Proof.Machine.execJmpXNeY addr s
  | .jmpPin addr => Sys2Proof.Machine.execJmpPin addr s
  | .jmpNotOsre addr => Sys2Proof.Machine.execJmpNotOsre addr s
  | .outPins n => Sys2Proof.Machine.execOutPins n s
  | .outX n => Sys2Proof.Machine.execOutX n s
  | .outY n => Sys2Proof.Machine.execOutY n s
  | .outNull n => Sys2Proof.Machine.execOutNull n s
  | .outPindirs n => Sys2Proof.Machine.execOutPindirs n s
  | .outPc n => Sys2Proof.Machine.execOutPc n s
  | .outIsr n => Sys2Proof.Machine.execOutIsr n s
  | .outExec n => Sys2Proof.Machine.execOutExec n s
  | .reserved001 rest => Sys2Proof.Machine.execReserved001 rest s
  | .reserved010 rest => Sys2Proof.Machine.execReserved010 rest s
  | .reserved100 rest => Sys2Proof.Machine.execReserved100 rest s
  | .reserved101 rest => Sys2Proof.Machine.execReserved101 rest s
  | .reserved110 rest => Sys2Proof.Machine.execReserved110 rest s
  | .reserved111 rest => Sys2Proof.Machine.execReserved111 rest s

end Sys2Proof.Machine
end

