-- ==== Sys2Proof/Machine/Step.lean ====
section
/-!
DEFINITION. One step of the sequencer (43_sequencer.md rule R120).
-/

namespace Sys2Proof.Machine

/-- Fetch, decode, execute, in this order; a fault in one phase ends the step (R120, R144). A state
that is not legal is refused: the spec gives it no meaning (10_state.md rule R26). -/
def step (s : State) : Host.Outcome State Fault Refusal :=
  if s.legal then
    match s.fetch with
    | .error f => raiseFault f
    | .ok ins =>
      match decodeResult ins with
      | .error (.unknownOpcode w) => raiseFault (.unknownOpcode w)
      | .ok i => exec i s
  else .refused .illegalState

/-- The state whose next step fetches the opcode table's word `w` of `nbits` bits: the host supplies
a program with that word at index `PC` (R30, R131). Log entry 2. -/
def State.withFetchWord (s : State) (nbits w : Nat) : State :=
  { s with program := placeWord s.program s.pc.toNat (tableWord nbits w) }

end Sys2Proof.Machine
end

