-- ==== Sys2Proof/Machine/Run.lean ====
section
/-!
DEFINITION. The run and the host's side of it (43_sequencer.md rules R125 to R132): the start of a
run, the sequence of pairs, the stop predicate, the single step and the abstract ports. Nothing
here changes a state between steps (00_scope.md rule R8).
-/

namespace Sys2Proof.Machine

/-! ## The start of a run (R26, R125, R131) -/

/-- The machine at the start of a run: the supplied program, initial state (a field the host leaves
out takes the reset value, R26) and configuration, and nothing of an earlier run (R130, R167). -/
def State.start (program : List OpWord) (init : ArchState) (cfg : RunConfig) : State :=
  { toArchState := init, program := program, cfg := cfg }

/-- The machine of the same run, its program and configuration, in another architectural state: the
spec's `step(s, program, cfg)` from `a` is `step` of it (R120). -/
def State.withArch (s : State) (a : ArchState) : State := State.start s.program a s.cfg

/-! ## The stop predicate (R126, R128) -/

/-- A stop predicate: its answer at its `k`-th evaluation (`k` counts from 1) on the pair of that step,
which is two architectural states: the pair does not show the program or the configuration (R20).
The count is the predicate's own state, outside the machine (R128, R153). Log entry 21. -/
abbrev StopWhen := Nat → ArchState → ArchState → Bool

/-- A predicate of the pair alone (R126), such as a breakpoint (R157). -/
def stopOnPair (p : ArchState → ArchState → Bool) : StopWhen := fun _ s t => p s t

/-- `clock_cycles_reached(n)`, `n` a `u64`: true at the `k`-th evaluation iff `k >= n` (R128). -/
def clockCyclesReached (n : BitVec 64) : StopWhen := fun k _ _ => decide (n.toNat ≤ k)

/-- A breakpoint at index `k`: the step that brings `PC` to it is completed and delivered (R157). -/
def breakpointAt (k : Word) : StopWhen := stopOnPair fun _ t => decide (t.pc = k)

/-! ## The sequence of pairs (R125 to R127, R129) -/

/-- How a run ended. -/
inductive RunEnd where
  /-- the stop predicate was true of the last pair (R126) -/
  | stopped
  /-- the host asked for no further step (R127) -/
  | unrequested
  /-- a step faulted: no pair for it, and the run is over (R145, R146) -/
  | faulted (f : Fault)
  /-- the model gives the step no meaning -/
  | refused (r : Refusal)
  deriving DecidableEq, Repr

/-- What a host has of a run: the pairs `(previous_state, new_state)` delivered, in order, seven fields
to a state (R11, R20, R132), the last state it was given, and how the run ended. -/
structure RunRecord where
  pairs : List (ArchState × ArchState)
  last : ArchState
  ending : RunEnd
  deriving DecidableEq, Repr

/-- The run of machine `s` when the host asks for at most `requests` steps and the stop predicate is
next asked for the `k`-th time. The pair is delivered first and the predicate asked then; it is
not asked of a step that faulted (R126). -/
def runFrom (stop : StopWhen) : (requests k : Nat) → State → RunRecord
  | 0, _, s => { pairs := [], last := s.toArchState, ending := .unrequested }
  | requests + 1, k, s =>
    match step s with
    | .next t =>
      let pair := (s.toArchState, t.toArchState)
      if stop k pair.1 pair.2 then { pairs := [pair], last := pair.2, ending := .stopped }
      else
        let rest := runFrom stop requests (k + 1) t
        { pairs := pair :: rest.pairs, last := rest.last, ending := rest.ending }
    | .fault f => { pairs := [], last := s.toArchState, ending := .faulted f }
    | .refused r => { pairs := [], last := s.toArchState, ending := .refused r }

/-- `emulate(program, initial_state, stop_when, jmp_pin, shift_osr_right)` (R125, R131), consumed for
at most `requests` elements: the sequence is lazy, and the host may stop asking at any time. -/
def emulate (requests : Nat) (program : List OpWord) (stop : StopWhen)
    (init : ArchState := {}) (cfg : RunConfig := RunConfig.default) : RunRecord :=
  runFrom stop requests 1 (State.start program init cfg)

/-- The single-step entry: one cycle of `emulate` under `clock_cycles_reached(1)` (R129). -/
def singleStep (s : State) : RunRecord := runFrom (clockCyclesReached 1#64) 1 1 s

/-! ## The abstract ports (R132) -/

/-- The ports R132 names that show the machine before a step; no rule depends on them. -/
structure Ports where
  imemAddr : Word
  imemValid : Bool
  /-- absent when `imem_valid` is 0 -/
  imemData : Option OpWord
  cfgJmpPinValid : Bool
  /-- absent when `cfg_jmp_pin_valid` is 0 -/
  cfgJmpPin : Option (BitVec 5)
  cfgShiftOsrRight : Bool
  deriving DecidableEq, Repr

/-- The instruction-memory and configuration ports in a state (R132). -/
def State.ports (s : State) : Ports :=
  { imemAddr := s.pc
    imemValid := decide (s.pc.toNat < s.program.length)
    imemData := s.program[s.pc.toNat]?
    cfgJmpPinValid := s.cfg.jmpPin.isSome
    cfgJmpPin := s.cfg.jmpPin
    cfgShiftOsrRight := s.cfg.shiftOsrRight }

/-- The `fault` port after a step from `s`: 0 for none, else the fault's number (R132, R148). -/
def State.faultPort (s : State) : BitVec 2 :=
  match step s with
  | .next _ => 0#2
  | .fault f => f.code
  | .refused _ => 0#2

end Sys2Proof.Machine
end

