-- ==== Sys2Proof/Safety.lean ====
section
/-!
DEFINITION. What a good state and a safe run are, in the terms the statements use.
-/

namespace Sys2Proof.Machine

/-- The invariant of the machine: both shift counts are at most 32 (10_state.md rule R18) and the
program has a length the spec admits (00_scope.md rule R5). -/
def State.Inv (s : State) : Prop := s.legal = true ∧ programWf s.program = true

/-- The instruction can complete under a configuration: every JMP and OUT can, but for `JMP PIN` with
no pin configured (R122, R149); a reserved word cannot (R142). -/
def Instr.completes (i : Instr) (cfg : RunConfig) : Bool :=
  match i with
  | .jmpPin _ => cfg.jmpPin.isSome
  | i => !i.reserved

/-- The next step of a legal state completes: there is a word at `PC` and its instruction can complete
(R144, R169). -/
def State.ready (s : State) : Bool :=
  match s.fetch with
  | .error _ => false
  | .ok w => Instr.completes (decode w) s.cfg

end Sys2Proof.Machine
end

