-- ==== Sys2Proof/Certificates/Slice0/Obligations.lean ====
section
/-!
DEFINITION. The statements. The bit arithmetic of the spec (00_scope.md rule R6) is written here as
arithmetic on naturals, so that a statement does not lean on the model's own operations.
-/

namespace Sys2Proof.Certificates

open Sys2Proof.Machine

/-- What leaves the OSR (R67, R68): the value modulo `2^n`, or divided by `2^(32-n)`. -/
def extracted (s : State) (n : Nat) : Word :=
  BitVec.ofNat 32 (if s.cfg.shiftOsrRight then s.osr.value.toNat % 2 ^ n
    else s.osr.value.toNat / 2 ^ (32 - n))

/-- What stays in the OSR (R67, R68, R69). -/
def shifted (s : State) (n : Nat) : ShiftRegister :=
  { value := BitVec.ofNat 32 (if s.cfg.shiftOsrRight then s.osr.value.toNat / 2 ^ n
      else s.osr.value.toNat * 2 ^ n % 2 ^ 32)
    count := min 32 (s.osr.count + n) }

/-- `old` with its low `n` bits replaced by the extracted value (R101, R105). -/
def lowReplaced (old : Word) (s : State) (n : Nat) : Word :=
  BitVec.ofNat 32 (old.toNat / 2 ^ n * 2 ^ n + (extracted s n).toNat)

/-- The effective bit count of an OUT word (R53). -/
def countOf (w : OpWord) : Nat := if w.toNat % 32 = 0 then 32 else w.toNat % 32

/-- The class of a word, `ins[15:13]`, as a number (R46). -/
def classOf (w : OpWord) : Nat := w.toNat / 2 ^ 13

/-- The class is one of the six reserved ones (R47, R56). -/
abbrev ReservedClass (w : OpWord) : Prop :=
  classOf w = 1 ∨ classOf w = 2 ∨ classOf w = 4 ∨ classOf w = 5 ∨ classOf w = 6 ∨ classOf w = 7

/-- The number of a condition, in the order R50 lists them. -/
def conditionNumber (c : Condition) : Nat :=
  match c with
  | .always => 0
  | .xZero => 1
  | .xDecNonzero => 2
  | .yZero => 3
  | .yDecNonzero => 4
  | .xNeY => 5
  | .pin => 6
  | .osrNotEmpty => 7

/-- The number of a destination, in the order of R52. -/
def destinationNumber (d : OutDestination) : Nat :=
  match d with
  | .pins => 0
  | .x => 1
  | .y => 2
  | .null => 3
  | .pindirs => 4
  | .pc => 5
  | .isr => 6
  | .exec => 7

/-- The row of R58's table, and of its six rows for the reserved classes: match and mask. -/
def opcodeRow (i : Instr) : OpWord × OpWord :=
  match i with
  | .jmp _ => (0x0000#16, 0xE0E0#16)
  | .jmpNotX _ => (0x0020#16, 0xE0E0#16)
  | .jmpXDec _ => (0x0040#16, 0xE0E0#16)
  | .jmpNotY _ => (0x0060#16, 0xE0E0#16)
  | .jmpYDec _ => (0x0080#16, 0xE0E0#16)
  | .jmpXNeY _ => (0x00A0#16, 0xE0E0#16)
  | .jmpPin _ => (0x00C0#16, 0xE0E0#16)
  | .jmpNotOsre _ => (0x00E0#16, 0xE0E0#16)
  | .outPins _ => (0x6000#16, 0xE0E0#16)
  | .outX _ => (0x6020#16, 0xE0E0#16)
  | .outY _ => (0x6040#16, 0xE0E0#16)
  | .outNull _ => (0x6060#16, 0xE0E0#16)
  | .outPindirs _ => (0x6080#16, 0xE0E0#16)
  | .outPc _ => (0x60A0#16, 0xE0E0#16)
  | .outIsr _ => (0x60C0#16, 0xE0E0#16)
  | .outExec _ => (0x60E0#16, 0xE0E0#16)
  | .reserved001 _ => (0x2000#16, 0xE000#16)
  | .reserved010 _ => (0x4000#16, 0xE000#16)
  | .reserved100 _ => (0x8000#16, 0xE000#16)
  | .reserved101 _ => (0xA000#16, 0xE000#16)
  | .reserved110 _ => (0xC000#16, 0xE000#16)
  | .reserved111 _ => (0xE000#16, 0xE000#16)

/-- The outcome with its next state, if there is one, changed by `f`. -/
def mapState (f : State → State) (o : StepOutcome) : StepOutcome :=
  match o with
  | .next t => .next (f t)
  | .fault e => .fault e
  | .refused r => .refused r

/-- The instructions executed one after another, whatever `PC` says. -/
def execAll : List Instr → State → StepOutcome
  | [], s => .next s
  | i :: rest, s =>
    match exec i s with
    | .next t => execAll rest t
    | .fault e => .fault e
    | .refused r => .refused r

end Sys2Proof.Certificates

open Sys2Proof Sys2Proof.Machine Sys2Proof.Certificates

/-- Words the spec writes out (30_encoding.md rule R61, 95_test_vectors.md J4, J28, O4, O31, F7). -/
def Obligations.WrittenOutWordsDecode : Prop :=
  decode 0x6083#16 = .outPindirs 3 ∧ decode 0x6023#16 = .outX 3 ∧ decode 0x60C5#16 = .outIsr 5 ∧
  decode 0x6000#16 = .outPins 32 ∧ decode 0x0023#16 = .jmpNotX 3#5 ∧ decode 0x00E9#16 = .jmpNotOsre 9#5 ∧
  decode 0x7F23#16 = .outX 3 ∧ decodeResult 0xA042#16 = .error (.unknownOpcode 0xA042#16)

/-- Decode and encode agree on all 22 rows, and the words are the numbers of R61 (which the spec
marks as its own inference from R49, R51, R53). -/
def Obligations.DecodeEncodeRoundTrip : Prop :=
  (∀ (c : Condition) (addr : BitVec 5),
    (encode (Instr.ofJmp c addr)).toNat = conditionNumber c * 2 ^ 5 + addr.toNat) ∧
  (∀ (d : OutDestination) (n : Nat), 1 ≤ n → n ≤ 32 →
    (encode (Instr.ofOut d n)).toNat = 3 * 2 ^ 13 + destinationNumber d * 2 ^ 5 + n % 32) ∧
  ∀ i : Instr, i.wellFormed = true → decode (encode i) = i

/-- The other direction of the round trip (R48, R55): the decoder drops the delay bits and nothing
else. -/
def Obligations.EncodeDecodeGivesTheWordBack : Prop :=
  ∀ w : OpWord, (ReservedClass w → encode (decode w) = w) ∧
    (¬ ReservedClass w → encode (decode w) = w &&& 0xE0FF#16)

/-- R58's table, with the six rows of the reserved classes: the decoder follows it (the spec marks
the table as derived from R47, R50, R52). -/
def Obligations.DecodeFollowsTheOpcodeTable : Prop :=
  ∀ (w : OpWord) (i : Instr),
    w &&& (opcodeRow i).2 = (opcodeRow i).1 ↔ opcodeRow (decode w) = opcodeRow i

/-- R53: the effective bit count. -/
def Obligations.DecodedInstructionsAreWellFormed : Prop :=
  (∀ w : OpWord, (decode w).wellFormed = true) ∧
  (∀ w : OpWord, 1 ≤ countOf w ∧ countOf w ≤ 32) ∧
  ∀ w : OpWord, classOf w = 3 → ∃ d, decode w = Instr.ofOut d (countOf w)

/-- R48, which the spec marks as its decision D5 (log entry 7). -/
def Obligations.DelayBitsChangeNothing : Prop :=
  ∀ w v : OpWord, w &&& 0xE0FF#16 = v &&& 0xE0FF#16 →
    (ReservedClass w ↔ ReservedClass v) ∧
    (¬ ReservedClass w → decode w = decode v ∧ ∀ s : State,
      mapState (fun t => { t with program := [] }) (step (s.withFetchWord 16 w.toNat)) =
        mapState (fun t => { t with program := [] }) (step (s.withFetchWord 16 v.toNat)))

/-- R142: the cause of UnknownOpcode (that all six classes are reserved is the spec's decision D4,
log entry 8). -/
def Obligations.UnknownOpcodeExactlyOnReservedClasses : Prop :=
  ∀ (s : State) (w v : OpWord), s.legal = true → s.program[s.pc.toNat]? = some w →
    (step s = .fault (.unknownOpcode v) ↔ v = w ∧ ReservedClass w)

/-- R56, R142: the six stops. That all six class values are illegal is the spec's decision D4 (log
entry 8). -/
def Obligations.ReservedClassesRaiseUnknownOpcode : Prop :=
  (∀ (rest : BitVec 13) (s : State),
    exec (.reserved001 rest) s = .fault (.unknownOpcode (0b001#3 ++ rest)) ∧
    exec (.reserved010 rest) s = .fault (.unknownOpcode (0b010#3 ++ rest)) ∧
    exec (.reserved100 rest) s = .fault (.unknownOpcode (0b100#3 ++ rest)) ∧
    exec (.reserved101 rest) s = .fault (.unknownOpcode (0b101#3 ++ rest)) ∧
    exec (.reserved110 rest) s = .fault (.unknownOpcode (0b110#3 ++ rest)) ∧
    exec (.reserved111 rest) s = .fault (.unknownOpcode (0b111#3 ++ rest))) ∧
  ∀ rest : BitVec 13,
    decode (0b001#3 ++ rest) = .reserved001 rest ∧
    decode (0b010#3 ++ rest) = .reserved010 rest ∧
    decode (0b100#3 ++ rest) = .reserved100 rest ∧
    decode (0b101#3 ++ rest) = .reserved101 rest ∧
    decode (0b110#3 ++ rest) = .reserved110 rest ∧
    decode (0b111#3 ++ rest) = .reserved111 rest ∧
    decodeResult (0b001#3 ++ rest) = .error (.unknownOpcode (0b001#3 ++ rest)) ∧
    decodeResult (0b010#3 ++ rest) = .error (.unknownOpcode (0b010#3 ++ rest)) ∧
    decodeResult (0b100#3 ++ rest) = .error (.unknownOpcode (0b100#3 ++ rest)) ∧
    decodeResult (0b101#3 ++ rest) = .error (.unknownOpcode (0b101#3 ++ rest)) ∧
    decodeResult (0b110#3 ++ rest) = .error (.unknownOpcode (0b110#3 ++ rest)) ∧
    decodeResult (0b111#3 ++ rest) = .error (.unknownOpcode (0b111#3 ++ rest))

/-- R82. The class and condition numbers are the spec's from general knowledge (log entries 4 and
5). -/
def Obligations.JmpAlwaysBranches : Prop :=
  (∀ w : OpWord, w &&& 0xE0E0#16 = 0x0000#16 → decode w = .jmp (w.setWidth 5)) ∧
  ∀ (addr : BitVec 5) (s : State), exec (.jmp addr) s = .next { s with pc := addr.setWidth 32 }

/-- R83. The class and condition numbers are the spec's from general knowledge (log entries 4 and
5). -/
def Obligations.JmpNotXBranchesOnZero : Prop :=
  (∀ w : OpWord, w &&& 0xE0E0#16 = 0x0020#16 → decode w = .jmpNotX (w.setWidth 5)) ∧
  ∀ (addr : BitVec 5) (s : State), exec (.jmpNotX addr) s =
    .next { s with pc := if s.x = 0#32 then addr.setWidth 32 else s.pc + 1#32 }

/-- R84; that X = 0 is left alone is 90_conflicts.md C3's resolution (DEDUCED, log entry 12). The
class and condition numbers are the spec's from general knowledge (log entries 4 and 5). -/
def Obligations.JmpXDecDecrementsAndBranches : Prop :=
  (∀ w : OpWord, w &&& 0xE0E0#16 = 0x0040#16 → decode w = .jmpXDec (w.setWidth 5)) ∧
  (∀ (addr : BitVec 5) (s : State), s.x ≠ 0#32 →
    exec (.jmpXDec addr) s = .next { s with x := s.x - 1#32, pc := addr.setWidth 32 }) ∧
  (∀ (addr : BitVec 5) (s : State), s.x = 0#32 →
    exec (.jmpXDec addr) s = .next { s with pc := s.pc + 1#32 }) ∧
  (∀ (addr : BitVec 5) (s : State) (k : Nat), k ≤ s.x.toNat →
    execAll (List.replicate k (.jmpXDec addr)) s =
      .next { s with x := BitVec.ofNat 32 (s.x.toNat - k),
                     pc := if k = 0 then s.pc else addr.setWidth 32 }) ∧
  ∀ (addr : BitVec 5) (s : State), execAll (List.replicate (s.x.toNat + 1) (.jmpXDec addr)) s =
    .next { s with x := 0#32, pc := (if s.x = 0#32 then s.pc else addr.setWidth 32) + 1#32 }

/-- R85. The class and condition numbers are the spec's from general knowledge (log entries 4 and
5). -/
def Obligations.JmpNotYBranchesOnZero : Prop :=
  (∀ w : OpWord, w &&& 0xE0E0#16 = 0x0060#16 → decode w = .jmpNotY (w.setWidth 5)) ∧
  ∀ (addr : BitVec 5) (s : State), exec (.jmpNotY addr) s =
    .next { s with pc := if s.y = 0#32 then addr.setWidth 32 else s.pc + 1#32 }

/-- R86; that Y = 0 is left alone is 90_conflicts.md C3's resolution (DEDUCED, log entry 12). The
class and condition numbers are the spec's from general knowledge (log entries 4 and 5). -/
def Obligations.JmpYDecDecrementsAndBranches : Prop :=
  (∀ w : OpWord, w &&& 0xE0E0#16 = 0x0080#16 → decode w = .jmpYDec (w.setWidth 5)) ∧
  (∀ (addr : BitVec 5) (s : State), s.y ≠ 0#32 →
    exec (.jmpYDec addr) s = .next { s with y := s.y - 1#32, pc := addr.setWidth 32 }) ∧
  (∀ (addr : BitVec 5) (s : State), s.y = 0#32 →
    exec (.jmpYDec addr) s = .next { s with pc := s.pc + 1#32 }) ∧
  (∀ (addr : BitVec 5) (s : State) (k : Nat), k ≤ s.y.toNat →
    execAll (List.replicate k (.jmpYDec addr)) s =
      .next { s with y := BitVec.ofNat 32 (s.y.toNat - k),
                     pc := if k = 0 then s.pc else addr.setWidth 32 }) ∧
  ∀ (addr : BitVec 5) (s : State), execAll (List.replicate (s.y.toNat + 1) (.jmpYDec addr)) s =
    .next { s with y := 0#32, pc := (if s.y = 0#32 then s.pc else addr.setWidth 32) + 1#32 }

/-- R87. The class and condition numbers are the spec's from general knowledge (log entries 4 and
5). -/
def Obligations.JmpXNeYBranchesOnDifference : Prop :=
  (∀ w : OpWord, w &&& 0xE0E0#16 = 0x00A0#16 → decode w = .jmpXNeY (w.setWidth 5)) ∧
  ∀ (addr : BitVec 5) (s : State), exec (.jmpXNeY addr) s =
    .next { s with pc := if s.x = s.y then s.pc + 1#32 else addr.setWidth 32 }

/-- R88. The class and condition numbers are the spec's from general knowledge (log entries 4 and
5). -/
def Obligations.JmpPinBranchesOnTheConfiguredPin : Prop :=
  (∀ w : OpWord, w &&& 0xE0E0#16 = 0x00C0#16 → decode w = .jmpPin (w.setWidth 5)) ∧
  (∀ (addr : BitVec 5) (s : State) (p : BitVec 5), s.cfg.jmpPin = some p →
    exec (.jmpPin addr) s = .next { s with pc :=
      if s.pins.toNat / 2 ^ p.toNat % 2 = 1 then addr.setWidth 32 else s.pc + 1#32 }) ∧
  ∀ (addr : BitVec 5) (s : State), s.cfg.jmpPin = none → exec (.jmpPin addr) s = .fault .missingPin

/-- R89. The class and condition numbers are the spec's from general knowledge (log entries 4 and
5). -/
def Obligations.JmpNotOsreBranchesWhileBitsRemain : Prop :=
  (∀ w : OpWord, w &&& 0xE0E0#16 = 0x00E0#16 → decode w = .jmpNotOsre (w.setWidth 5)) ∧
  ∀ (addr : BitVec 5) (s : State), exec (.jmpNotOsre addr) s =
    .next { s with pc := if s.osr.count < 32 then addr.setWidth 32 else s.pc + 1#32 }

/-- R101, with shift_out as R67 to R69 give it. The destination number is the spec's from general
knowledge (log entry 6). -/
def Obligations.OutPinsReplacesTheLowBits : Prop :=
  (∀ w : OpWord, w &&& 0xE0E0#16 = 0x6000#16 → decode w = .outPins (countOf w)) ∧
  ∀ (n : Nat) (s : State), 1 ≤ n → n ≤ 32 → exec (.outPins n) s =
    .next { s with pins := lowReplaced s.pins s n, osr := shifted s n, pc := s.pc + 1#32 }

/-- R102, with shift_out as R67 to R69 give it. -/
def Obligations.OutXReplacesX : Prop :=
  (∀ w : OpWord, w &&& 0xE0E0#16 = 0x6020#16 → decode w = .outX (countOf w)) ∧
  ∀ (n : Nat) (s : State), 1 ≤ n → n ≤ 32 → exec (.outX n) s =
    .next { s with x := extracted s n, osr := shifted s n, pc := s.pc + 1#32 }

/-- R103, with shift_out as R67 to R69 give it. The destination number is the spec's from general
knowledge (log entry 6). -/
def Obligations.OutYReplacesY : Prop :=
  (∀ w : OpWord, w &&& 0xE0E0#16 = 0x6040#16 → decode w = .outY (countOf w)) ∧
  ∀ (n : Nat) (s : State), 1 ≤ n → n ≤ 32 → exec (.outY n) s =
    .next { s with y := extracted s n, osr := shifted s n, pc := s.pc + 1#32 }

/-- R104, with shift_out as R67 to R69 give it. The destination number is the spec's from general
knowledge (log entry 6). -/
def Obligations.OutNullOnlyShiftsTheOsr : Prop :=
  (∀ w : OpWord, w &&& 0xE0E0#16 = 0x6060#16 → decode w = .outNull (countOf w)) ∧
  ∀ (n : Nat) (s : State), 1 ≤ n → n ≤ 32 → exec (.outNull n) s =
    .next { s with osr := shifted s n, pc := s.pc + 1#32 }

/-- R105, with shift_out as R67 to R69 give it. -/
def Obligations.OutPindirsReplacesTheLowBits : Prop :=
  (∀ w : OpWord, w &&& 0xE0E0#16 = 0x6080#16 → decode w = .outPindirs (countOf w)) ∧
  ∀ (n : Nat) (s : State), 1 ≤ n → n ≤ 32 → exec (.outPindirs n) s =
    .next { s with pindirs := lowReplaced s.pindirs s n, osr := shifted s n, pc := s.pc + 1#32 }

/-- R106, with shift_out as R67 to R69 give it; that PC takes the whole extracted value, not its low
five bits, is the spec's decision D24 (DESIGN CHOICE, log entry 28). The destination number is the
spec's from general knowledge (log entry 6). -/
def Obligations.OutPcJumpsToTheExtractedValue : Prop :=
  (∀ w : OpWord, w &&& 0xE0E0#16 = 0x60A0#16 → decode w = .outPc (countOf w)) ∧
  ∀ (n : Nat) (s : State), 1 ≤ n → n ≤ 32 → exec (.outPc n) s =
    .next { s with osr := shifted s n, pc := extracted s n }

/-- R107, with shift_out as R67 to R69 give it; that the ISR is assigned, not accumulated into, is
90_conflicts.md C4's resolution (DEDUCED, log entry 13), and the shift_in clause rests on R71's
formulas, the spec's from general knowledge (PRESUMED, log entry 19). -/
def Obligations.OutIsrAssignsTheIsr : Prop :=
  (∀ w : OpWord, w &&& 0xE0E0#16 = 0x60C0#16 → decode w = .outIsr (countOf w)) ∧
  ∀ (n : Nat) (s : State), 1 ≤ n → n ≤ 32 → exec (.outIsr n) s =
    .next { s with isr := { value := extracted s n, count := n }, osr := shifted s n,
                   pc := s.pc + 1#32 } ∧
    shiftIn { value := 0#32, count := 0 } (extracted s n) n false =
      { value := extracted s n, count := n }

/-- R108, with shift_out as R67 to R69 give it; that the word is discarded while the OSR shifts is
90_conflicts.md C6's resolution and the spec's decision D25 (DEDUCED, log entry 14). The destination
number is the spec's from general knowledge (log entry 6). -/
def Obligations.OutExecDiscardsTheWord : Prop :=
  (∀ w : OpWord, w &&& 0xE0E0#16 = 0x60E0#16 → decode w = .outExec (countOf w)) ∧
  ∀ (n : Nat) (s : State), 1 ≤ n → n ≤ 32 → exec (.outExec n) s =
    .next { s with osr := shifted s n, pc := s.pc + 1#32 } ∧
    exec (.outExec n) s = exec (.outNull n) s

/-- R100, and R109 which the spec marks as its decision D10 (log entry 15). -/
def Obligations.EveryOutCompletesAndShifts : Prop :=
  ∀ (d : OutDestination) (n : Nat) (s : State), 1 ≤ n → n ≤ 32 →
    ∃ t, exec (Instr.ofOut d n) s = .next t ∧ t.osr = shifted s n ∧
      t.pc = (if d = .pc then extracted s n else s.pc + 1#32)

/-- R66 to R68: the extracted bits and the remaining bits are the old value, so the shift loses and
invents nothing. -/
def Obligations.ShiftOutLosesNoBit : Prop :=
  ∀ (sr : ShiftRegister) (n : Nat), 1 ≤ n → n ≤ 32 →
    ((shiftOut sr n true).1.toNat < 2 ^ n ∧
      sr.value.toNat = (shiftOut sr n true).2.value.toNat * 2 ^ n + (shiftOut sr n true).1.toNat) ∧
    ((shiftOut sr n false).1.toNat < 2 ^ n ∧
      sr.value.toNat * 2 ^ n =
        (shiftOut sr n false).1.toNat * 2 ^ 32 + (shiftOut sr n false).2.value.toNat)

/-- R66 to R69: the least significant bits leave first on a right shift, the most significant first
on a left shift. -/
def Obligations.TwoShiftsAreOneShift : Prop :=
  ∀ (sr : ShiftRegister) (a b : Nat), 1 ≤ a → 1 ≤ b → a + b ≤ 32 →
    (∀ right, (shiftOut (shiftOut sr a right).2 b right).2 = (shiftOut sr (a + b) right).2) ∧
    (shiftOut sr (a + b) true).1.toNat =
      (shiftOut sr a true).1.toNat + (shiftOut (shiftOut sr a true).2 b true).1.toNat * 2 ^ a ∧
    (shiftOut sr (a + b) false).1.toNat =
      (shiftOut sr a false).1.toNat * 2 ^ b + (shiftOut (shiftOut sr a false).2 b false).1.toNat

/-- R69 and the source's scenario S8: the count saturates over repeated OUTs. -/
def Obligations.RepeatedOutsSaturateTheCount : Prop :=
  ∀ (outs : List (OutDestination × Nat)) (s : State), s.osr.count ≤ 32 →
    (∀ o ∈ outs, 1 ≤ o.2 ∧ o.2 ≤ 32) →
    ∃ t, execAll (outs.map fun o => Instr.ofOut o.1 o.2) s = .next t ∧
      t.osr.count = min 32 (s.osr.count + (outs.map Prod.snd).sum)

/-- R69: within a run OSR.count never decreases (marked derived by the spec: nothing in the block
refills the OSR). -/
def Obligations.OsrCountNeverDecreasesInARun : Prop :=
  ∀ (k : Nat) (s t : State), core.run k s = .next t → s.osr.count ≤ t.osr.count

/-- R71, whose formulas for the value the spec marks as general knowledge (log entry 19). -/
def Obligations.ShiftInMergesTheBits : Prop :=
  ∀ (sr : ShiftRegister) (src : Word) (n : Nat), 1 ≤ n → n ≤ 32 →
    ((shiftIn sr src n false).value.toNat = sr.value.toNat * 2 ^ n % 2 ^ 32 + src.toNat % 2 ^ n ∧
      (shiftIn sr src n false).count = min 32 (sr.count + n)) ∧
    ((shiftIn sr src n true).value.toNat =
        sr.value.toNat / 2 ^ n + src.toNat % 2 ^ n * 2 ^ (32 - n) ∧
      (shiftIn sr src n true).count = min 32 (sr.count + n))

/-- R19, R72, R73. -/
def Obligations.EmptyAndFullPredicates : Prop :=
  (∀ (sr : ShiftRegister) (threshold : Nat), isEmpty sr threshold = true ↔ sr.count ≥ threshold) ∧
  (∀ sr : ShiftRegister, isFull sr = true ↔ sr.count = 0) ∧
  (∀ s : State, s.osrEmpty = true ↔ s.osr.count ≥ 32) ∧
  (∀ s : State, s.legal = true → (s.osrEmpty = true ↔ s.osr.count = 32)) ∧
  ∀ s : State, s.osrFull = true ↔ s.osr.count = 0

/-- R28's write sets (marked derived by the spec), R13, R22, R23. -/
def Obligations.EachFieldHasOnlyItsNamedWriters : Prop :=
  ∀ (i : Instr) (s t : State), exec i s = .next t →
    (t.x ≠ s.x → (∃ a, i = .jmpXDec a) ∨ ∃ n, i = .outX n) ∧
    (t.y ≠ s.y → (∃ a, i = .jmpYDec a) ∨ ∃ n, i = .outY n) ∧
    (t.pins ≠ s.pins → ∃ n, i = .outPins n) ∧
    (t.pindirs ≠ s.pindirs → ∃ n, i = .outPindirs n) ∧
    (t.osr ≠ s.osr → ∃ d n, i = Instr.ofOut d n) ∧
    (t.isr ≠ s.isr → ∃ n, i = .outIsr n) ∧
    t.program = s.program ∧ t.cfg = s.cfg ∧
    ∀ a, memRead t.program a = memRead s.program a

/-- R41 and R20: the instruction memory and the configuration are constant through a run. -/
def Obligations.ProgramAndConfigurationConstantInARun : Prop :=
  ∀ (k : Nat) (s t : State), core.run k s = .next t →
    t.program = s.program ∧ t.cfg = s.cfg ∧ ∀ a, memRead t.program a = memRead s.program a

/-- R22, R28: no instruction reads the ISR. -/
def Obligations.IsrIsReadByNoInstruction : Prop :=
  (∀ (i : Instr) (s : State) (r : ShiftRegister), (∀ n, i ≠ .outIsr n) →
    exec i { s with isr := r } = mapState (fun t => { t with isr := r }) (exec i s)) ∧
  ∀ (n : Nat) (s : State) (r : ShiftRegister),
    exec (.outIsr n) { s with isr := r } = exec (.outIsr n) s

/-- R23, R28, the spec's decision D17 (log entry 16). -/
def Obligations.PindirsGatesNothing : Prop :=
  ∀ (i : Instr) (s : State) (v : Word), (∀ n, i ≠ .outPindirs n) →
    exec i { s with pindirs := v } = mapState (fun t => { t with pindirs := v }) (exec i s)

/-- R22, R28, R89. -/
def Obligations.OsrIsReadOnlyByOutsAndItsCountByJmpNotOsre : Prop :=
  (∀ (c : Condition) (a : BitVec 5) (s : State) (v : Word),
    exec (Instr.ofJmp c a) { s with osr := { s.osr with value := v } } =
      mapState (fun t => { t with osr := { t.osr with value := v } }) (exec (Instr.ofJmp c a) s)) ∧
  ∀ (c : Condition) (a : BitVec 5) (s : State) (r : ShiftRegister), c ≠ .osrNotEmpty →
    exec (Instr.ofJmp c a) { s with osr := r } =
      mapState (fun t => { t with osr := r }) (exec (Instr.ofJmp c a) s)

/-- R20, R28. -/
def Obligations.ConfigurationIsReadOnlyWhereNamed : Prop :=
  (∀ (i : Instr) (s : State) (p : Option (BitVec 5)), (∀ a, i ≠ .jmpPin a) →
    exec i { s with cfg := { s.cfg with jmpPin := p } } =
      mapState (fun t => { t with cfg := { t.cfg with jmpPin := p } }) (exec i s)) ∧
  ∀ (i : Instr) (s : State) (b : Bool), (∀ d n, i ≠ Instr.ofOut d n) →
    exec i { s with cfg := { s.cfg with shiftOsrRight := b } } =
      mapState (fun t => { t with cfg := { t.cfg with shiftOsrRight := b } }) (exec i s)

/-- R15, R37, R90 (R15's modulus is the spec's decision D7, log entry 11; R90 is marked derived). -/
def Obligations.ControlTransfersAreTheNamedOnes : Prop :=
  ∀ (i : Instr) (s t : State), i.wellFormed = true → exec i s = .next t → t.pc ≠ s.pc + 1#32 →
    (∃ c a, i = Instr.ofJmp c a ∧ t.pc = a.setWidth 32 ∧ t.pc.toNat < 32) ∨
    ∃ n, i = .outPc n ∧ t.pc = extracted s n

/-- R122, R140, R149: the executor is total but for MissingPin; a reserved row raises UnknownOpcode.
-/
def Obligations.NoInstructionIsRefused : Prop :=
  ∀ (i : Instr) (s : State), (∃ t, exec i s = .next t) ∨
    ((∃ a, i = .jmpPin a) ∧ s.cfg.jmpPin = none ∧ exec i s = .fault .missingPin) ∨
    (i.reserved = true ∧ exec i s = .fault (.unknownOpcode (encode i)))

/-- R120: the three phases of a step, in order. -/
def Obligations.StepRunsTheDecodedInstruction : Prop :=
  ∀ s : State, s.legal = true →
    (s.program.length ≤ s.pc.toNat → step s = .fault (.programCounterOutOfRange s.pc)) ∧
    (∀ w v, s.program[s.pc.toNat]? = some w → decodeResult w = .error (.unknownOpcode v) →
      v = w ∧ step s = .fault (.unknownOpcode w)) ∧
    (∀ w i, s.program[s.pc.toNat]? = some w → decodeResult w = .ok i →
      i.wellFormed = true ∧ step s = exec i s) ∧
    ∀ w, s.program[s.pc.toNat]? = some w → step s = exec (decode w) s

/-- R31: the fetch primitive. -/
def Obligations.FetchReadsTheWordAtPc : Prop :=
  (∀ (p : List OpWord) (a : Word), p.length ≤ a.toNat →
    memRead p a = .error (.programCounterOutOfRange a)) ∧
  (∀ (p : List OpWord) (a : Word) (h : a.toNat < p.length), memRead p a = .ok p[a.toNat]) ∧
  (∀ s : State, s.fetch = memRead s.program s.pc) ∧
  ∀ s : State, s.program = [] → s.fetch = .error (.programCounterOutOfRange s.pc)

/-- R141: the fault belongs to the fetch, not to the instruction that wrote the bad PC. -/
def Obligations.OutOfRangeFaultsAtTheFollowingFetch : Prop :=
  (∀ (s : State) (a : Word), s.legal = true →
    (step s = .fault (.programCounterOutOfRange a) ↔ a = s.pc ∧ s.program.length ≤ s.pc.toNat)) ∧
  ∀ s t : State, step s = .next t → t.program.length ≤ t.pc.toNat →
    step t = .fault (.programCounterOutOfRange t.pc)

/-- R143: the cause of MissingPin. Class 0 and condition number 6 are the spec's from general
knowledge (PRESUMED, log entries 4 and 5). -/
def Obligations.MissingPinExactlyWhenJmpPinExecutes : Prop :=
  ∀ s : State, s.legal = true →
    (step s = .fault .missingPin ↔ s.cfg.jmpPin = none ∧
      ∃ w, s.program[s.pc.toNat]? = some w ∧ w.toNat / 2 ^ 13 = 0 ∧ w.toNat / 2 ^ 5 % 8 = 6)

/-- R144, R149 (marked derived by the spec). -/
def Obligations.FaultPriorityAndCompletion : Prop :=
  ∀ s : State, s.legal = true →
    (s.program.length ≤ s.pc.toNat → step s = .fault (.programCounterOutOfRange s.pc)) ∧
    ∀ w, s.program[s.pc.toNat]? = some w →
      (ReservedClass w → step s = .fault (.unknownOpcode w)) ∧
      (¬ ReservedClass w → w &&& 0xE0E0#16 = 0x00C0#16 → s.cfg.jmpPin = none →
        step s = .fault .missingPin) ∧
      (¬ ReservedClass w → (w &&& 0xE0E0#16 ≠ 0x00C0#16 ∨ s.cfg.jmpPin ≠ none) →
        ∃ t, step s = .next t)

/-- R169: what a fault-free step requires. -/
def Obligations.ReadyStatesAreThoseThatStep : Prop :=
  ∀ s : State, (∃ t, step s = .next t) ↔ s.legal = true ∧ s.ready = true

/-- R140; R148's numbers are the spec's decision D13 (log entry 20). -/
def Obligations.FaultCodesAndFamilies : Prop :=
  (∀ a, (Fault.programCounterOutOfRange a).code = 1#2) ∧ (∀ w, (Fault.unknownOpcode w).code = 2#2) ∧
  Fault.missingPin.code = 3#2 ∧ (∀ f : Fault, f.code ≠ 0#2) ∧
  (∀ a, (Fault.programCounterOutOfRange a).family = .decodeError) ∧
  (∀ w, (Fault.unknownOpcode w).family = .decodeError) ∧ Fault.missingPin.family = .configError

/-- R26, the spec's decision D20; that the refusal is made by the step is the model's choice (log
entry 10). -/
def Obligations.IllegalStatesAreRefused : Prop :=
  ∀ (s : State) (r : Refusal),
    step s = .refused r ↔ r = .illegalState ∧ (32 < s.osr.count ∨ 32 < s.isr.count)

/-- R18's invariant, `0 <= count <= 32` of both shift registers, with R5's bound on the program. -/
def Obligations.StepKeepsTheInvariant : Prop :=
  ∀ s t : State, s.Inv → step s = .next t → t.Inv

/-- R18 at the reset state of R25. -/
def Obligations.ResetMeetsTheInvariant : Prop :=
  State.reset.Inv

/-- R165, the values of R25. -/
def Obligations.ResetStateIsAllZero : Prop :=
  State.reset.pc = 0#32 ∧ State.reset.x = 0#32 ∧ State.reset.y = 0#32 ∧ State.reset.pins = 0#32 ∧
  State.reset.pindirs = 0#32 ∧ State.reset.osr = { value := 0#32, count := 0 } ∧
  State.reset.isr = { value := 0#32, count := 0 } ∧
  State.start [] {} RunConfig.default = State.reset

/-- R168 (marked derived by the spec). The OSR full at reset is log entry 17, the zero register of
JMP X-- and Y-- log entry 12; what OUT ISR, EXEC and PC do is log entries 13, 14 and 28, and an OUT
on an empty OSR log entry 15. -/
def Obligations.WhatAProgramSeesFromReset : Prop :=
  ∀ (p : List OpWord) (cfg : RunConfig) (s : State),
    s = { State.reset with program := p, cfg := cfg } →
    (∀ addr : BitVec 5,
      exec (.jmpNotX addr) s = .next { s with pc := addr.setWidth 32 } ∧
      exec (.jmpNotY addr) s = .next { s with pc := addr.setWidth 32 } ∧
      exec (.jmpNotOsre addr) s = .next { s with pc := addr.setWidth 32 } ∧
      exec (.jmpXDec addr) s = .next { s with pc := 1#32 } ∧
      exec (.jmpYDec addr) s = .next { s with pc := 1#32 } ∧
      exec (.jmpXNeY addr) s = .next { s with pc := 1#32 } ∧
      (cfg.jmpPin = none → exec (.jmpPin addr) s = .fault .missingPin) ∧
      (cfg.jmpPin ≠ none → exec (.jmpPin addr) s = .next { s with pc := 1#32 })) ∧
    (∀ (d : OutDestination) (n : Nat), 1 ≤ n → n ≤ 32 → exec (Instr.ofOut d n) s =
      .next { s with pc := if d = .pc then 0#32 else 1#32
                     osr := { value := 0#32, count := n }
                     isr := if d = .isr then { value := 0#32, count := n } else s.isr }) ∧
    ∀ outs : List (OutDestination × Nat), (∀ o ∈ outs, 1 ≤ o.2 ∧ o.2 ≤ 32) →
      ∃ t, execAll (outs.map fun o => Instr.ofOut o.1 o.2) s = .next t ∧
        t.osr = { value := 0#32, count := min 32 (outs.map Prod.snd).sum } ∧
        t.x = 0#32 ∧ t.y = 0#32 ∧ t.pins = 0#32 ∧ t.pindirs = 0#32 ∧ t.isr.value = 0#32

/-- How a program comes to run: the host supplies it (R30, R131); the placing is the model's (log
entry 2). -/
def Obligations.APlacedWordIsTheOneRun : Prop :=
  ∀ (s : State) (w : OpWord), s.legal = true →
    step (s.withFetchWord 16 w.toNat) = exec (decode w) (s.withFetchWord 16 w.toNat) ∧
    ∀ a : Word, a ≠ s.pc → a.toNat < s.program.length →
      memRead (s.withFetchWord 16 w.toNat).program a = memRead s.program a

/-- R125: the sequence of pairs, computed only as requested, and each one that is requested is
computed (that a stop ends the run is R126). -/
def Obligations.ARunDeliversAChainOfPairs : Prop :=
  (∀ (stop : StopWhen) (n k : Nat) (s : State),
    (∀ p ∈ (runFrom stop n k s).pairs, step (s.withArch p.1) = .next (s.withArch p.2)) ∧
    (∀ p, (runFrom stop n k s).pairs[0]? = some p → p.1 = s.toArchState) ∧
    (∀ j p q, (runFrom stop n k s).pairs[j]? = some p →
      (runFrom stop n k s).pairs[j + 1]? = some q → p.2 = q.1) ∧
    (runFrom stop n k s).pairs.length ≤ n ∧
    (runFrom stop n k s).last =
      (((runFrom stop n k s).pairs.getLast?).map Prod.snd).getD s.toArchState ∧
    ((runFrom stop n k s).ending = .stopped → ∃ p, (runFrom stop n k s).pairs.getLast? = some p ∧
      stop (k + (runFrom stop n k s).pairs.length - 1) p.1 p.2 = true) ∧
    ((runFrom stop n k s).pairs.length < n → (runFrom stop n k s).ending ≠ .stopped →
      ∀ t, step (s.withArch (runFrom stop n k s).last) ≠ .next t)) ∧
  (∀ (stop : StopWhen) (n m k : Nat) (s : State),
    (runFrom stop n k s).pairs <+: (runFrom stop (n + m) k s).pairs) ∧
  ∀ (n : Nat) (p : List OpWord) (stop : StopWhen) (init : ArchState) (cfg : RunConfig),
    emulate n p stop init cfg = runFrom stop n 1 (State.start p init cfg)

/-- R126; not asking after a fault is the spec's decision D22 (log entry 21). -/
def Obligations.TheStoppingPairIsTheLast : Prop :=
  ∀ (stop : StopWhen) (n : Nat) (s : State) (j : Nat) (p : ArchState × ArchState),
    (runFrom stop n 1 s).pairs[j]? = some p →
    (stop (j + 1) p.1 p.2 = true ↔
      j + 1 = (runFrom stop n 1 s).pairs.length ∧ (runFrom stop n 1 s).ending = .stopped)

/-- R128; the case n = 0 is the spec's decision D14 (log entry 21). -/
def Obligations.ClockCyclesReachedRunsExactlyNSteps : Prop :=
  (∀ (n : BitVec 64) (m : Nat) (s t : State), 1 ≤ n.toNat → core.run n.toNat s = .next t →
    (runFrom (clockCyclesReached n) (n.toNat + m) 1 s).pairs.length = n.toNat ∧
    (runFrom (clockCyclesReached n) (n.toNat + m) 1 s).last = t.toArchState ∧
    (runFrom (clockCyclesReached n) (n.toNat + m) 1 s).ending = .stopped) ∧
  ∀ (m : Nat) (s : State),
    runFrom (clockCyclesReached 0#64) m 1 s = runFrom (clockCyclesReached 1#64) m 1 s

/-- R129. -/
def Obligations.SingleStepIsOneCycle : Prop :=
  (∀ s t : State, step s = .next t →
    singleStep s =
      { pairs := [(s.toArchState, t.toArchState)], last := t.toArchState, ending := .stopped }) ∧
  (∀ (s : State) (f : Fault), step s = .fault f →
    singleStep s = { pairs := [], last := s.toArchState, ending := .faulted f }) ∧
  ∀ (s : State) (m : Nat), runFrom (clockCyclesReached 1#64) (m + 1) 1 s = singleStep s

/-- R145: fault entry writes nothing, emits no pair, is delivered in place of the pair, and is
precise. A run whose requests are used up has not asked for the step, and ends unrequested (R127).
-/
def Obligations.FaultsArePrecise : Prop :=
  (∀ (stop : StopWhen) (n k : Nat) (s : State) (f : Fault),
    (runFrom stop n k s).ending = .faulted f → step (s.withArch (runFrom stop n k s).last) = .fault f ∧
      (runFrom stop n k s).last =
        (((runFrom stop n k s).pairs.getLast?).map Prod.snd).getD s.toArchState) ∧
  (∀ (stop : StopWhen) (n k : Nat) (s : State),
    (runFrom stop n k s).pairs.length < n → (runFrom stop n k s).ending ≠ .stopped →
    (∀ t, step (s.withArch (runFrom stop n k s).last) ≠ .next t) ∧
    ∀ f, (runFrom stop n k s).ending = .faulted f ↔
      step (s.withArch (runFrom stop n k s).last) = .fault f) ∧
  ∀ (stop : StopWhen) (n k : Nat) (s : State) (f : Fault), step s = .fault f →
    runFrom stop (n + 1) k s = { pairs := [], last := s.toArchState, ending := .faulted f }

/-- R11. The machine's two run inputs, the program and the configuration, stand outside ArchState
(log entry 3). -/
def Obligations.StatesAreEqualExactlyWhenTheirSevenFieldsAre : Prop :=
  (∀ a b : ArchState, a = b ↔ a.pc = b.pc ∧ a.x = b.x ∧ a.y = b.y ∧ a.pins = b.pins ∧
    a.pindirs = b.pindirs ∧ a.osr.value = b.osr.value ∧ a.osr.count = b.osr.count ∧
    a.isr.value = b.isr.value ∧ a.isr.count = b.isr.count) ∧
  ∀ s t : State, step s = .next t → (singleStep s).pairs = [(s.toArchState, t.toArchState)]
end

