-- ==== Sys2Proof/Laws/Decode.lean ====
section
/-!
SUPPORT. The fields of a word built from fields, the words rebuilt from their fields, and the field
codes read back.
-/

namespace Sys2Proof

theorem opClass_ofFields (c : BitVec 3) (d : BitVec 5) (s : BitVec 3) (l : BitVec 5) :
    opClass (ofFields c d s l) = c := by
  unfold opClass ofFields
  ext i hi
  simp only [BitVec.getElem_extractLsb', BitVec.getLsbD_append]
  grind

theorem opDelay_ofFields (c : BitVec 3) (d : BitVec 5) (s : BitVec 3) (l : BitVec 5) :
    opDelay (ofFields c d s l) = d := by
  unfold opDelay ofFields
  ext i hi
  simp only [BitVec.getElem_extractLsb', BitVec.getLsbD_append]
  grind

theorem opSel_ofFields (c : BitVec 3) (d : BitVec 5) (s : BitVec 3) (l : BitVec 5) :
    opSel (ofFields c d s l) = s := by
  unfold opSel ofFields
  ext i hi
  simp only [BitVec.getElem_extractLsb', BitVec.getLsbD_append]
  grind

theorem opLo_ofFields (c : BitVec 3) (d : BitVec 5) (s : BitVec 3) (l : BitVec 5) :
    opLo (ofFields c d s l) = l := by
  unfold opLo ofFields
  ext i hi
  simp only [BitVec.getElem_extractLsb', BitVec.getLsbD_append]
  grind

theorem opClass_encodeReserved (c : BitVec 3) (r : BitVec 13) : opClass (encodeReserved c r) = c := by
  unfold opClass encodeReserved
  ext i hi
  simp only [BitVec.getElem_extractLsb', BitVec.getLsbD_append]
  grind

theorem opRest_encodeReserved (c : BitVec 3) (r : BitVec 13) : opRest (encodeReserved c r) = r := by
  unfold opRest encodeReserved
  ext i hi
  simp only [BitVec.getElem_extractLsb', BitVec.getLsbD_append]
  grind

theorem ofFields_fields (w : OpWord) : ofFields (opClass w) (opDelay w) (opSel w) (opLo w) = w := by
  unfold ofFields opClass opDelay opSel opLo
  apply BitVec.eq_of_getLsbD_eq
  intro i hi
  simp only [BitVec.getLsbD_append, BitVec.getLsbD_extractLsb']
  grind

theorem encodeReserved_fields (w : OpWord) : encodeReserved (opClass w) (opRest w) = w := by
  unfold encodeReserved opClass opRest
  apply BitVec.eq_of_getLsbD_eq
  intro i hi
  simp only [BitVec.getLsbD_append, BitVec.getLsbD_extractLsb']
  grind

@[simp] theorem conditionOf_conditionCode (c : Condition) : conditionOf (conditionCode c) = c := by
  cases c <;> rfl

@[simp] theorem conditionCode_conditionOf : ∀ sel, conditionCode (conditionOf sel) = sel := by decide

@[simp] theorem destinationOf_destinationCode (d : OutDestination) :
    destinationOf (destinationCode d) = d := by cases d <;> rfl

@[simp] theorem destinationCode_destinationOf : ∀ sel, destinationCode (destinationOf sel) = sel := by
  decide

theorem effectiveCount_countField (n : Nat) (h : wellFormedCount n = true) :
    effectiveCount (countField n) = n := by
  have hn : 1 ≤ n ∧ n ≤ 32 := by simpa [wellFormedCount] using h
  have : ∀ k : Fin 33, 1 ≤ k.val → effectiveCount (countField k.val) = k.val := by decide
  exact this ⟨n, by omega⟩ hn.1

@[simp] theorem countField_effectiveCount : ∀ lo, countField (effectiveCount lo) = lo := by decide

theorem effectiveCount_wellFormed : ∀ lo, wellFormedCount (effectiveCount lo) = true := by decide

end Sys2Proof
end

