-- ==== Sys2Proof/Laws/Operands.lean ====
section
/-!
SUPPORT. The bit arithmetic of 00_scope.md rule R6 read as arithmetic on naturals.
-/

namespace Sys2Proof.Machine

theorem two_pow_le (n : Nat) (h : n ≤ 32) : 2 ^ n ≤ 2 ^ 32 := Nat.pow_le_pow_right (by decide) h

@[simp] theorem mask_toNat (n : Nat) (h : n ≤ 32) : (mask n).toNat = 2 ^ n - 1 := by
  have h1 := two_pow_le n h
  have h2 : 0 < 2 ^ n := Nat.two_pow_pos n
  rw [mask, BitVec.toNat_ofNat, Nat.mod_eq_of_lt (by omega)]

theorem and_mask_toNat (v : Word) (n : Nat) (h : n ≤ 32) : (v &&& mask n).toNat = v.toNat % 2 ^ n := by
  rw [BitVec.toNat_and, mask_toNat n h, Nat.and_two_pow_sub_one_eq_mod]

theorem not32_eq_not (v : Word) : not32 v = ~~~v := by
  rw [not32, show (0xFFFF_FFFF#32 : Word) = BitVec.allOnes 32 from rfl, BitVec.allOnes_sub_eq_not]

theorem shr32_toNat (v : Word) (n : Nat) : (shr32 v n).toNat = v.toNat / 2 ^ n := by
  rw [shr32, BitVec.toNat_ushiftRight, Nat.shiftRight_eq_div_pow]

theorem shl32_toNat (v : Word) (n : Nat) : (shl32 v n).toNat = v.toNat * 2 ^ n % 2 ^ 32 := by
  rw [shl32, BitVec.toNat_shiftLeft, Nat.shiftLeft_eq]

theorem nextPc_toNat (pc : Word) : (nextPc pc).toNat = (pc.toNat + 1) % 2 ^ 32 := by
  simp [nextPc]

theorem jmpTarget_toNat (addr : BitVec 5) : (jmpTarget addr).toNat = addr.toNat := by
  have := addr.isLt
  rw [jmpTarget, BitVec.toNat_setWidth, Nat.mod_eq_of_lt (by omega)]

/-- Bit `i` of a word whose low `n` bits are replaced: of the new value below `n`, of the old above. -/
theorem replaceLow_getLsbD (old ext : Word) (n i : Nat) (h : n ≤ 32) (he : ext.toNat < 2 ^ n) :
    (replaceLow old ext n).getLsbD i = if i < n then ext.getLsbD i else old.getLsbD i := by
  have hm : (mask n).getLsbD i = decide (i < n) := by
    rw [BitVec.getLsbD, mask_toNat n h, Nat.testBit_two_pow_sub_one]
  rw [replaceLow, not32_eq_not, BitVec.getLsbD_or, BitVec.getLsbD_and, BitVec.getLsbD_not, hm]
  by_cases hi : i < n
  · simp [hi]
  · have hz : ext.getLsbD i = false :=
      Nat.testBit_lt_two_pow (Nat.lt_of_lt_of_le he (Nat.pow_le_pow_right (by decide) (by omega)))
    rw [hz]
    by_cases h32 : i < 32
    · simp [hi, h32]
    · simp [hi, BitVec.getLsbD_of_ge old i (by omega)]

end Sys2Proof.Machine
end

