-- ==== Sys2Proof/Laws/Shift.lean ====
section
/-!
SUPPORT. What the shift-register primitives can do (40_shift_datapath.md).
-/

namespace Sys2Proof.Machine

theorem saturate_le (count n : Nat) : saturate count n ≤ 32 := Nat.min_le_left _ _

theorem le_saturate (count n : Nat) (h : count ≤ 32) : count ≤ saturate count n := by
  unfold saturate; omega

/-- A right shift, as arithmetic: the remainder leaves and the quotient stays. -/
theorem shiftOut_right (sr : ShiftRegister) (n : Nat) (h : n ≤ 32) :
    (shiftOut sr n true).1.toNat = sr.value.toNat % 2 ^ n ∧
    (shiftOut sr n true).2.value.toNat = sr.value.toNat / 2 ^ n ∧
    (shiftOut sr n true).2.count = min 32 (sr.count + n) :=
  ⟨and_mask_toNat _ n h, shr32_toNat _ n, rfl⟩

/-- A left shift, as arithmetic: the high part leaves and the low part moves up. -/
theorem shiftOut_left (sr : ShiftRegister) (n : Nat) :
    (shiftOut sr n false).1.toNat = sr.value.toNat / 2 ^ (32 - n) ∧
    (shiftOut sr n false).2.value.toNat = sr.value.toNat * 2 ^ n % 2 ^ 32 ∧
    (shiftOut sr n false).2.count = min 32 (sr.count + n) :=
  ⟨shr32_toNat _ _, shl32_toNat _ _, rfl⟩

/-- The extracted value has `n` bits. -/
theorem shiftOut_ext_lt (sr : ShiftRegister) (n : Nat) (right : Bool) (h : n ≤ 32) :
    (shiftOut sr n right).1.toNat < 2 ^ n := by
  cases right with
  | true => rw [(shiftOut_right sr n h).1]; exact Nat.mod_lt _ (Nat.two_pow_pos n)
  | false =>
    rw [(shiftOut_left sr n).1, Nat.div_lt_iff_lt_mul (Nat.two_pow_pos _), ← Nat.pow_add]
    have h32 : n + (32 - n) = 32 := by omega
    rw [h32]; exact sr.value.isLt

@[simp] theorem shiftOut_count (sr : ShiftRegister) (n : Nat) (right : Bool) :
    (shiftOut sr n right).2.count = saturate sr.count n := by cases right <;> rfl

@[simp] theorem shiftIn_count (sr : ShiftRegister) (src : Word) (n : Nat) (right : Bool) :
    (shiftIn sr src n right).count = saturate sr.count n := by cases right <;> rfl

theorem isEmpty_iff_le_count (sr : ShiftRegister) (t : Nat) : isEmpty sr t = true ↔ t ≤ sr.count := by
  simp [isEmpty]

theorem isFull_iff_count_eq (sr : ShiftRegister) : isFull sr = true ↔ sr.count = 0 := by
  simp [isFull]

theorem legal_iff_counts_le (s : State) : s.legal = true ↔ s.osr.count ≤ 32 ∧ s.isr.count ≤ 32 := by
  simp [State.legal]

end Sys2Proof.Machine
end

