-- ==== Sys2Proof/Laws/State.lean ====
section
/-!
SUPPORT. One lemma per field per register write: the field written has the value, every other field is
as before.
-/

namespace Sys2Proof.Machine

@[simp] theorem State.setPc_pc (s : State) (v : Word) : (s.setPc v).pc = v := rfl
@[simp] theorem State.setPc_x (s : State) (v : Word) : (s.setPc v).x = s.x := rfl
@[simp] theorem State.setPc_y (s : State) (v : Word) : (s.setPc v).y = s.y := rfl
@[simp] theorem State.setPc_pins (s : State) (v : Word) : (s.setPc v).pins = s.pins := rfl
@[simp] theorem State.setPc_pindirs (s : State) (v : Word) : (s.setPc v).pindirs = s.pindirs := rfl
@[simp] theorem State.setPc_osr (s : State) (v : Word) : (s.setPc v).osr = s.osr := rfl
@[simp] theorem State.setPc_isr (s : State) (v : Word) : (s.setPc v).isr = s.isr := rfl
@[simp] theorem State.setPc_program (s : State) (v : Word) : (s.setPc v).program = s.program := rfl
@[simp] theorem State.setPc_cfg (s : State) (v : Word) : (s.setPc v).cfg = s.cfg := rfl

@[simp] theorem State.setX_pc (s : State) (v : Word) : (s.setX v).pc = s.pc := rfl
@[simp] theorem State.setX_x (s : State) (v : Word) : (s.setX v).x = v := rfl
@[simp] theorem State.setX_y (s : State) (v : Word) : (s.setX v).y = s.y := rfl
@[simp] theorem State.setX_pins (s : State) (v : Word) : (s.setX v).pins = s.pins := rfl
@[simp] theorem State.setX_pindirs (s : State) (v : Word) : (s.setX v).pindirs = s.pindirs := rfl
@[simp] theorem State.setX_osr (s : State) (v : Word) : (s.setX v).osr = s.osr := rfl
@[simp] theorem State.setX_isr (s : State) (v : Word) : (s.setX v).isr = s.isr := rfl
@[simp] theorem State.setX_program (s : State) (v : Word) : (s.setX v).program = s.program := rfl
@[simp] theorem State.setX_cfg (s : State) (v : Word) : (s.setX v).cfg = s.cfg := rfl

@[simp] theorem State.setY_pc (s : State) (v : Word) : (s.setY v).pc = s.pc := rfl
@[simp] theorem State.setY_x (s : State) (v : Word) : (s.setY v).x = s.x := rfl
@[simp] theorem State.setY_y (s : State) (v : Word) : (s.setY v).y = v := rfl
@[simp] theorem State.setY_pins (s : State) (v : Word) : (s.setY v).pins = s.pins := rfl
@[simp] theorem State.setY_pindirs (s : State) (v : Word) : (s.setY v).pindirs = s.pindirs := rfl
@[simp] theorem State.setY_osr (s : State) (v : Word) : (s.setY v).osr = s.osr := rfl
@[simp] theorem State.setY_isr (s : State) (v : Word) : (s.setY v).isr = s.isr := rfl
@[simp] theorem State.setY_program (s : State) (v : Word) : (s.setY v).program = s.program := rfl
@[simp] theorem State.setY_cfg (s : State) (v : Word) : (s.setY v).cfg = s.cfg := rfl

@[simp] theorem State.setPins_pc (s : State) (v : Word) : (s.setPins v).pc = s.pc := rfl
@[simp] theorem State.setPins_x (s : State) (v : Word) : (s.setPins v).x = s.x := rfl
@[simp] theorem State.setPins_y (s : State) (v : Word) : (s.setPins v).y = s.y := rfl
@[simp] theorem State.setPins_pins (s : State) (v : Word) : (s.setPins v).pins = v := rfl
@[simp] theorem State.setPins_pindirs (s : State) (v : Word) : (s.setPins v).pindirs = s.pindirs := rfl
@[simp] theorem State.setPins_osr (s : State) (v : Word) : (s.setPins v).osr = s.osr := rfl
@[simp] theorem State.setPins_isr (s : State) (v : Word) : (s.setPins v).isr = s.isr := rfl
@[simp] theorem State.setPins_program (s : State) (v : Word) : (s.setPins v).program = s.program := rfl
@[simp] theorem State.setPins_cfg (s : State) (v : Word) : (s.setPins v).cfg = s.cfg := rfl

@[simp] theorem State.setPindirs_pc (s : State) (v : Word) : (s.setPindirs v).pc = s.pc := rfl
@[simp] theorem State.setPindirs_x (s : State) (v : Word) : (s.setPindirs v).x = s.x := rfl
@[simp] theorem State.setPindirs_y (s : State) (v : Word) : (s.setPindirs v).y = s.y := rfl
@[simp] theorem State.setPindirs_pins (s : State) (v : Word) : (s.setPindirs v).pins = s.pins := rfl
@[simp] theorem State.setPindirs_pindirs (s : State) (v : Word) : (s.setPindirs v).pindirs = v := rfl
@[simp] theorem State.setPindirs_osr (s : State) (v : Word) : (s.setPindirs v).osr = s.osr := rfl
@[simp] theorem State.setPindirs_isr (s : State) (v : Word) : (s.setPindirs v).isr = s.isr := rfl
@[simp] theorem State.setPindirs_program (s : State) (v : Word) : (s.setPindirs v).program = s.program := rfl
@[simp] theorem State.setPindirs_cfg (s : State) (v : Word) : (s.setPindirs v).cfg = s.cfg := rfl

@[simp] theorem State.setOsr_pc (s : State) (v : ShiftRegister) : (s.setOsr v).pc = s.pc := rfl
@[simp] theorem State.setOsr_x (s : State) (v : ShiftRegister) : (s.setOsr v).x = s.x := rfl
@[simp] theorem State.setOsr_y (s : State) (v : ShiftRegister) : (s.setOsr v).y = s.y := rfl
@[simp] theorem State.setOsr_pins (s : State) (v : ShiftRegister) : (s.setOsr v).pins = s.pins := rfl
@[simp] theorem State.setOsr_pindirs (s : State) (v : ShiftRegister) : (s.setOsr v).pindirs = s.pindirs := rfl
@[simp] theorem State.setOsr_osr (s : State) (v : ShiftRegister) : (s.setOsr v).osr = v := rfl
@[simp] theorem State.setOsr_isr (s : State) (v : ShiftRegister) : (s.setOsr v).isr = s.isr := rfl
@[simp] theorem State.setOsr_program (s : State) (v : ShiftRegister) : (s.setOsr v).program = s.program := rfl
@[simp] theorem State.setOsr_cfg (s : State) (v : ShiftRegister) : (s.setOsr v).cfg = s.cfg := rfl

@[simp] theorem State.setIsr_pc (s : State) (v : ShiftRegister) : (s.setIsr v).pc = s.pc := rfl
@[simp] theorem State.setIsr_x (s : State) (v : ShiftRegister) : (s.setIsr v).x = s.x := rfl
@[simp] theorem State.setIsr_y (s : State) (v : ShiftRegister) : (s.setIsr v).y = s.y := rfl
@[simp] theorem State.setIsr_pins (s : State) (v : ShiftRegister) : (s.setIsr v).pins = s.pins := rfl
@[simp] theorem State.setIsr_pindirs (s : State) (v : ShiftRegister) : (s.setIsr v).pindirs = s.pindirs := rfl
@[simp] theorem State.setIsr_osr (s : State) (v : ShiftRegister) : (s.setIsr v).osr = s.osr := rfl
@[simp] theorem State.setIsr_isr (s : State) (v : ShiftRegister) : (s.setIsr v).isr = v := rfl
@[simp] theorem State.setIsr_program (s : State) (v : ShiftRegister) : (s.setIsr v).program = s.program := rfl
@[simp] theorem State.setIsr_cfg (s : State) (v : ShiftRegister) : (s.setIsr v).cfg = s.cfg := rfl

@[simp] theorem State.advancePc_pc (s : State) : s.advancePc.pc = nextPc s.pc := rfl
@[simp] theorem State.advancePc_x (s : State) : s.advancePc.x = s.x := rfl
@[simp] theorem State.advancePc_y (s : State) : s.advancePc.y = s.y := rfl
@[simp] theorem State.advancePc_pins (s : State) : s.advancePc.pins = s.pins := rfl
@[simp] theorem State.advancePc_pindirs (s : State) : s.advancePc.pindirs = s.pindirs := rfl
@[simp] theorem State.advancePc_osr (s : State) : s.advancePc.osr = s.osr := rfl
@[simp] theorem State.advancePc_isr (s : State) : s.advancePc.isr = s.isr := rfl
@[simp] theorem State.advancePc_program (s : State) : s.advancePc.program = s.program := rfl
@[simp] theorem State.advancePc_cfg (s : State) : s.advancePc.cfg = s.cfg := rfl

end Sys2Proof.Machine
end

