-- ==== Sys2Proof/Laws/Ops.lean ====
section
/-!
SUPPORT. What each shared operation can do, said once: the instruction memory, the condition
evaluator, `jump` and `shiftOutTo`.
-/

namespace Sys2Proof.Machine

/-! ## The instruction memory -/

/-- The fetch primitive reads the word at the index, or faults when the index is outside. -/
theorem memRead_ok_iff (p : List OpWord) (a : Word) (w : OpWord) :
    memRead p a = .ok w ↔ p[a.toNat]? = some w := by
  unfold memRead; split <;> simp_all

theorem memRead_error_iff (p : List OpWord) (a : Word) (f : Fault) :
    memRead p a = .error f ↔ p.length ≤ a.toNat ∧ f = .programCounterOutOfRange a := by
  unfold memRead
  split
  · rename_i w hw
    have := (List.getElem?_eq_some_iff.mp hw).1
    simp; omega
  · rename_i hw
    have := List.getElem?_eq_none_iff.mp hw
    simp [this, eq_comm]

@[simp] theorem placeWord_getElem?_self (p : List OpWord) (k : Nat) (w : OpWord) :
    (placeWord p k w)[k]? = some w := by
  induction k generalizing p with
  | zero => cases p <;> rfl
  | succ k ih => cases p <;> simp [placeWord, ih]

/-- A placed word leaves every other word of the program as it was. -/
theorem placeWord_getElem?_ne (p : List OpWord) (k j : Nat) (w : OpWord) (hj : j < p.length)
    (hne : j ≠ k) : (placeWord p k w)[j]? = p[j]? := by
  induction k generalizing p j with
  | zero =>
    cases p with
    | nil => simp at hj
    | cons v rest =>
      cases j with
      | zero => exact absurd rfl hne
      | succ j => simp [placeWord]
  | succ k ih =>
    cases p with
    | nil => simp at hj
    | cons v rest =>
      cases j with
      | zero => simp [placeWord]
      | succ j =>
        simp only [placeWord, List.getElem?_cons_succ]
        exact ih rest j (by simpa using hj) (by omega)

@[simp] theorem placeWord_length (p : List OpWord) (k : Nat) (w : OpWord) :
    (placeWord p k w).length = max p.length (k + 1) := by
  induction k generalizing p with
  | zero => cases p <;> simp [placeWord]
  | succ k ih => cases p <;> simp [placeWord, ih]

theorem programWf_iff (p : List OpWord) : programWf p = true ↔ p.length ≤ 2 ^ 32 := by
  simp only [programWf, decide_eq_true_eq]

/-- Placing a word at an index a `PC` can hold keeps the form of the program. -/
theorem programWf_placeWord (p : List OpWord) (pc : Word) (w : OpWord) (h : programWf p = true) :
    programWf (placeWord p pc.toNat w) = true := by
  have hp := pc.isLt
  rw [programWf_iff] at *
  rw [placeWord_length]
  exact Nat.max_le.mpr ⟨h, hp⟩

theorem programWf_reset : programWf State.reset.program = true := by decide

/-! ## The condition evaluator -/

/-- The evaluator writes nothing but `X` or `Y`, and only the condition that decrements it. -/
theorem evaluate_frame {c : Condition} {s s1 : State} {taken : Bool}
    (h : evaluate c s = .ok (taken, s1)) :
    s1 = s ∨ (c = .xDecNonzero ∧ taken = true ∧ s.x ≠ 0#32 ∧ s1 = s.setX (s.x - 1#32)) ∨
      (c = .yDecNonzero ∧ taken = true ∧ s.y ≠ 0#32 ∧ s1 = s.setY (s.y - 1#32)) := by
  cases c <;> simp only [evaluate, decNonzero] at h
  case xDecNonzero => split at h <;> simp_all
  case yDecNonzero => split at h <;> simp_all
  case pin => split at h <;> simp_all
  all_goals simp_all

/-- The evaluator fails only for `PIN` with no pin configured. -/
theorem evaluate_error_iff (c : Condition) (s : State) (f : Fault) :
    evaluate c s = .error f ↔ c = .pin ∧ s.cfg.jmpPin = none ∧ f = .missingPin := by
  cases c <;> simp [evaluate]
  split <;> simp_all [eq_comm]

/-! ## JMP -/

/-- What a JMP can do: if it answers a next state, that is the evaluator's state with `PC` at the target
or at the next index. -/
theorem jump_next {c : Condition} {addr : BitVec 5} {s t : State} (h : jump c addr s = .next t) :
    ∃ taken s1, evaluate c s = .ok (taken, s1) ∧
      t = s1.setPc (if taken then jmpTarget addr else nextPc s.pc) := by
  unfold jump at h
  split at h
  · cases h
  · rename_i s1 he
    exact ⟨true, s1, he, by cases h; rfl⟩
  · rename_i s1 he
    refine ⟨false, s1, he, ?_⟩
    have hpc : s1.pc = s.pc := by
      rcases evaluate_frame he with h1 | ⟨_, h1, _⟩ | ⟨_, h1, _⟩
      · rw [h1]
      · cases h1
      · cases h1
    cases h
    simp [State.advancePc, hpc]

/-- What a JMP changes at most: `PC`, `X` for `JMP X--`, `Y` for `JMP Y--`. -/
theorem jump_frame {c : Condition} {addr : BitVec 5} {s t : State} (h : jump c addr s = .next t) :
    t.pins = s.pins ∧ t.pindirs = s.pindirs ∧ t.osr = s.osr ∧ t.isr = s.isr ∧
      t.program = s.program ∧ t.cfg = s.cfg ∧ (c ≠ .xDecNonzero → t.x = s.x) ∧
      (c ≠ .yDecNonzero → t.y = s.y) := by
  obtain ⟨taken, s1, he, rfl⟩ := jump_next h
  rcases evaluate_frame he with rfl | ⟨rfl, -, -, rfl⟩ | ⟨rfl, -, -, rfl⟩ <;> simp

/-- When a JMP faults. -/
theorem jump_fault_iff (c : Condition) (addr : BitVec 5) (s : State) (f : Fault) :
    jump c addr s = .fault f ↔ c = .pin ∧ s.cfg.jmpPin = none ∧ f = .missingPin := by
  rw [← evaluate_error_iff]
  unfold jump
  split <;> simp_all [raiseFault]

theorem jump_not_refused (c : Condition) (addr : BitVec 5) (s : State) (r : Refusal) :
    jump c addr s ≠ .refused r := by
  unfold jump; split <;> simp [raiseFault]

/-! ## OUT -/

/-- What an OUT does: it answers a next state, with the shifted OSR, whatever the destination. -/
theorem shiftOutTo_eq (d : OutDestination) (n : Nat) (s : State) :
    shiftOutTo d n s = .next ((route d (shiftOut s.osr n s.cfg.shiftOsrRight).1 n s).setOsr
      (shiftOut s.osr n s.cfg.shiftOsrRight).2) := rfl

/-- What the routing of an OUT changes: its destination, and `PC`. -/
theorem route_frame (d : OutDestination) (ext : Word) (n : Nat) (s : State) :
    (route d ext n s).osr = s.osr ∧ (route d ext n s).program = s.program ∧
      (route d ext n s).cfg = s.cfg ∧
      (d ≠ .x → (route d ext n s).x = s.x) ∧ (d ≠ .y → (route d ext n s).y = s.y) ∧
      (d ≠ .pins → (route d ext n s).pins = s.pins) ∧
      (d ≠ .pindirs → (route d ext n s).pindirs = s.pindirs) ∧
      (d ≠ .isr → (route d ext n s).isr = s.isr) ∧
      (d ≠ .pc → (route d ext n s).pc = nextPc s.pc) := by
  cases d <;> simp [route]

end Sys2Proof.Machine
end

