-- ==== Sys2Proof/Laws/PerInstr.lean ====
section
/-!
SUPPORT. For every instruction: the fields its word holds (30_encoding.md rules R49, R51, R56).
-/

namespace Sys2Proof.Laws.EncodedFields

/-- The word is a JMP word with this condition and address and no delay bits. -/
def IsJmpWord (c : Condition) (addr : BitVec 5) (w : OpWord) : Prop :=
  opClass w = 0b000#3 ∧ opDelay w = 0#5 ∧ opSel w = conditionCode c ∧ opLo w = addr

/-- The word is an OUT word with this destination and count field and no delay bits. -/
def IsOutWord (d : OutDestination) (n : Nat) (w : OpWord) : Prop :=
  opClass w = 0b011#3 ∧ opDelay w = 0#5 ∧ opSel w = destinationCode d ∧ opLo w = countField n

/-- The word is of this class and has these lower bits. -/
def IsReservedWord (cls : BitVec 3) (rest : BitVec 13) (w : OpWord) : Prop :=
  opClass w = cls ∧ opRest w = rest

theorem isJmpWord_encodeJmp (c : Condition) (addr : BitVec 5) : IsJmpWord c addr (encodeJmp c addr) :=
  ⟨opClass_ofFields .., opDelay_ofFields .., opSel_ofFields .., opLo_ofFields ..⟩

theorem isOutWord_encodeOut (d : OutDestination) (n : Nat) : IsOutWord d n (encodeOut d n) :=
  ⟨opClass_ofFields .., opDelay_ofFields .., opSel_ofFields .., opLo_ofFields ..⟩

theorem isReservedWord_encodeReserved (cls : BitVec 3) (rest : BitVec 13) :
    IsReservedWord cls rest (encodeReserved cls rest) :=
  ⟨opClass_encodeReserved .., opRest_encodeReserved ..⟩

/-- The fields of the instruction's word are those of its row in the opcode table. -/
def Statement (i : Instr) : Prop :=
  match i with
  | .jmp addr => IsJmpWord .always addr (encode (.jmp addr))
  | .jmpNotX addr => IsJmpWord .xZero addr (encode (.jmpNotX addr))
  | .jmpXDec addr => IsJmpWord .xDecNonzero addr (encode (.jmpXDec addr))
  | .jmpNotY addr => IsJmpWord .yZero addr (encode (.jmpNotY addr))
  | .jmpYDec addr => IsJmpWord .yDecNonzero addr (encode (.jmpYDec addr))
  | .jmpXNeY addr => IsJmpWord .xNeY addr (encode (.jmpXNeY addr))
  | .jmpPin addr => IsJmpWord .pin addr (encode (.jmpPin addr))
  | .jmpNotOsre addr => IsJmpWord .osrNotEmpty addr (encode (.jmpNotOsre addr))
  | .outPins n => IsOutWord .pins n (encode (.outPins n))
  | .outX n => IsOutWord .x n (encode (.outX n))
  | .outY n => IsOutWord .y n (encode (.outY n))
  | .outNull n => IsOutWord .null n (encode (.outNull n))
  | .outPindirs n => IsOutWord .pindirs n (encode (.outPindirs n))
  | .outPc n => IsOutWord .pc n (encode (.outPc n))
  | .outIsr n => IsOutWord .isr n (encode (.outIsr n))
  | .outExec n => IsOutWord .exec n (encode (.outExec n))
  | .reserved001 rest => IsReservedWord 0b001#3 rest (encode (.reserved001 rest))
  | .reserved010 rest => IsReservedWord 0b010#3 rest (encode (.reserved010 rest))
  | .reserved100 rest => IsReservedWord 0b100#3 rest (encode (.reserved100 rest))
  | .reserved101 rest => IsReservedWord 0b101#3 rest (encode (.reserved101 rest))
  | .reserved110 rest => IsReservedWord 0b110#3 rest (encode (.reserved110 rest))
  | .reserved111 rest => IsReservedWord 0b111#3 rest (encode (.reserved111 rest))

theorem jmp (addr : BitVec 5) : Statement (.jmp addr) := isJmpWord_encodeJmp .always addr
theorem jmpNotX (addr : BitVec 5) : Statement (.jmpNotX addr) := isJmpWord_encodeJmp .xZero addr
theorem jmpXDec (addr : BitVec 5) : Statement (.jmpXDec addr) := isJmpWord_encodeJmp .xDecNonzero addr
theorem jmpNotY (addr : BitVec 5) : Statement (.jmpNotY addr) := isJmpWord_encodeJmp .yZero addr
theorem jmpYDec (addr : BitVec 5) : Statement (.jmpYDec addr) := isJmpWord_encodeJmp .yDecNonzero addr
theorem jmpXNeY (addr : BitVec 5) : Statement (.jmpXNeY addr) := isJmpWord_encodeJmp .xNeY addr
theorem jmpPin (addr : BitVec 5) : Statement (.jmpPin addr) := isJmpWord_encodeJmp .pin addr
theorem jmpNotOsre (addr : BitVec 5) : Statement (.jmpNotOsre addr) := isJmpWord_encodeJmp .osrNotEmpty addr
theorem outPins (n : Nat) : Statement (.outPins n) := isOutWord_encodeOut .pins n
theorem outX (n : Nat) : Statement (.outX n) := isOutWord_encodeOut .x n
theorem outY (n : Nat) : Statement (.outY n) := isOutWord_encodeOut .y n
theorem outNull (n : Nat) : Statement (.outNull n) := isOutWord_encodeOut .null n
theorem outPindirs (n : Nat) : Statement (.outPindirs n) := isOutWord_encodeOut .pindirs n
theorem outPc (n : Nat) : Statement (.outPc n) := isOutWord_encodeOut .pc n
theorem outIsr (n : Nat) : Statement (.outIsr n) := isOutWord_encodeOut .isr n
theorem outExec (n : Nat) : Statement (.outExec n) := isOutWord_encodeOut .exec n
theorem reserved001 (rest : BitVec 13) : Statement (.reserved001 rest) := isReservedWord_encodeReserved 0b001#3 rest
theorem reserved010 (rest : BitVec 13) : Statement (.reserved010 rest) := isReservedWord_encodeReserved 0b010#3 rest
theorem reserved100 (rest : BitVec 13) : Statement (.reserved100 rest) := isReservedWord_encodeReserved 0b100#3 rest
theorem reserved101 (rest : BitVec 13) : Statement (.reserved101 rest) := isReservedWord_encodeReserved 0b101#3 rest
theorem reserved110 (rest : BitVec 13) : Statement (.reserved110 rest) := isReservedWord_encodeReserved 0b110#3 rest
theorem reserved111 (rest : BitVec 13) : Statement (.reserved111 rest) := isReservedWord_encodeReserved 0b111#3 rest

end Sys2Proof.Laws.EncodedFields
end

