-- ==== Sys2Proof/Laws/Step.lean ====
section
/-!
SUPPORT. What a step, a run of steps and a run with a stop predicate can do.
-/

namespace Sys2Proof.Machine

/-- The decoder's contract gives the row of the word, or rejects a reserved class with the word. -/
theorem decodeResult_ok_iff (w : OpWord) (i : Instr) :
    decodeResult w = .ok i ↔ decode w = i ∧ i.reserved = false := by
  unfold decodeResult
  split
  · rename_i h
    constructor
    · intro h'; cases h'
    · rintro ⟨rfl, h'⟩; simp [h] at h'
  · rename_i h
    constructor
    · intro h'; cases h'; exact ⟨rfl, by simpa using h⟩
    · rintro ⟨rfl, -⟩; rfl

/-- What a completed step has done: it fetched a word, decoded it and executed it. -/
theorem step_next {s t : State} (h : step s = .next t) :
    s.legal = true ∧ ∃ w, s.fetch = .ok w ∧ (decode w).reserved = false ∧
      exec (decode w) s = .next t := by
  unfold step at h
  split at h
  · rename_i hl
    refine ⟨hl, ?_⟩
    split at h
    · cases h
    · rename_i w hw
      split at h
      · cases h
      · rename_i i hi
        obtain ⟨rfl, hr⟩ := (decodeResult_ok_iff w i).mp hi
        exact ⟨w, hw, hr, h⟩
  · cases h

@[simp] theorem withFetchWord_pc (s : State) (nbits w : Nat) : (s.withFetchWord nbits w).pc = s.pc := rfl
@[simp] theorem withFetchWord_x (s : State) (nbits w : Nat) : (s.withFetchWord nbits w).x = s.x := rfl
@[simp] theorem withFetchWord_y (s : State) (nbits w : Nat) : (s.withFetchWord nbits w).y = s.y := rfl
@[simp] theorem withFetchWord_pins (s : State) (nbits w : Nat) :
    (s.withFetchWord nbits w).pins = s.pins := rfl
@[simp] theorem withFetchWord_pindirs (s : State) (nbits w : Nat) :
    (s.withFetchWord nbits w).pindirs = s.pindirs := rfl
@[simp] theorem withFetchWord_osr (s : State) (nbits w : Nat) :
    (s.withFetchWord nbits w).osr = s.osr := rfl
@[simp] theorem withFetchWord_isr (s : State) (nbits w : Nat) :
    (s.withFetchWord nbits w).isr = s.isr := rfl
@[simp] theorem withFetchWord_cfg (s : State) (nbits w : Nat) :
    (s.withFetchWord nbits w).cfg = s.cfg := rfl

/-- The word placed is the word the next step fetches. -/
theorem withFetchWord_fetch (s : State) (nbits w : Nat) :
    (s.withFetchWord nbits w).fetch = .ok (tableWord nbits w) := by
  unfold State.fetch
  rw [memRead_ok_iff]
  exact placeWord_getElem?_self s.program s.pc.toNat (tableWord nbits w)

/-! ## Runs -/

/-- One more step of any machine: the first step completed, and the rest ran from its state. -/
theorem hostRun_succ (M : Host.Core) (k : Nat) (s t : M.State) (h : M.run (k + 1) s = .next t) :
    ∃ u, M.step s = .next u ∧ M.run k u = .next t := by
  rw [Host.Core.run] at h
  split at h
  · rename_i u hu; exact ⟨u, hu, h⟩
  · cases h
  · cases h

/-- The same of this machine. -/
theorem core_run_succ (k : Nat) (s t : State) (h : Sys2Proof.core.run (k + 1) s = .next t) :
    ∃ u, step s = .next u ∧ Sys2Proof.core.run k u = .next t := hostRun_succ Sys2Proof.core k s t h

theorem runFrom_zero (stop : StopWhen) (k : Nat) (s : State) :
    runFrom stop 0 k s = { pairs := [], last := s.toArchState, ending := .unrequested } := rfl

/-- A completed step that does not satisfy the stop predicate: its pair, then the rest of the run. -/
theorem runFrom_next {stop : StopWhen} {n k : Nat} {s t : State} (h : step s = .next t)
    (hs : stop k s.toArchState t.toArchState = false) :
    runFrom stop (n + 1) k s =
      { pairs := (s.toArchState, t.toArchState) :: (runFrom stop n (k + 1) t).pairs,
        last := (runFrom stop n (k + 1) t).last, ending := (runFrom stop n (k + 1) t).ending } := by
  rw [runFrom, h]; simp [hs]

/-- A completed step that satisfies the stop predicate: its pair is the last. -/
theorem runFrom_stop {stop : StopWhen} {n k : Nat} {s t : State} (h : step s = .next t)
    (hs : stop k s.toArchState t.toArchState = true) :
    runFrom stop (n + 1) k s =
      { pairs := [(s.toArchState, t.toArchState)], last := t.toArchState, ending := .stopped } := by
  rw [runFrom, h]; simp [hs]

/-- A faulting step: no pair, and the state is the one before it. -/
theorem runFrom_fault {stop : StopWhen} {n k : Nat} {s : State} {f : Fault} (h : step s = .fault f) :
    runFrom stop (n + 1) k s = { pairs := [], last := s.toArchState, ending := .faulted f } := by
  rw [runFrom, h]

theorem runFrom_refused {stop : StopWhen} {n k : Nat} {s : State} {r : Refusal}
    (h : step s = .refused r) :
    runFrom stop (n + 1) k s = { pairs := [], last := s.toArchState, ending := .refused r } := by
  rw [runFrom, h]

/-! ## The machine of a run in one of its states -/

@[simp] theorem State.start_toArchState (p : List OpWord) (a : ArchState) (c : RunConfig) :
    (State.start p a c).toArchState = a := rfl
@[simp] theorem State.start_program (p : List OpWord) (a : ArchState) (c : RunConfig) :
    (State.start p a c).program = p := rfl
@[simp] theorem State.start_cfg (p : List OpWord) (a : ArchState) (c : RunConfig) :
    (State.start p a c).cfg = c := rfl
@[simp] theorem State.withArch_toArchState (s : State) (a : ArchState) :
    (s.withArch a).toArchState = a := rfl
@[simp] theorem State.withArch_program (s : State) (a : ArchState) :
    (s.withArch a).program = s.program := rfl
@[simp] theorem State.withArch_cfg (s : State) (a : ArchState) : (s.withArch a).cfg = s.cfg := rfl
@[simp] theorem State.withArch_self (s : State) : s.withArch s.toArchState = s := rfl
@[simp] theorem State.withArch_withArch (s : State) (a b : ArchState) :
    (s.withArch a).withArch b = s.withArch b := rfl

end Sys2Proof.Machine
end

