-- ==== Sys2Proof/Tests/Slice0.lean ====
section
/-!
SUPPORT. The model's own tests. Expected results are the spec's: the source's scenarios and the derived
vectors of spec/95_test_vectors.md, whose ids (S1, J4, O2, F1, H5 ...) stand before each test. The
witnesses at the end show, for each statement with hypotheses, that something meets them.
-/

namespace Sys2Proof.Tests

open Sys2Proof.Machine Sys2Proof.Certificates

/-- A register pair `(value, count)`. -/
def sr (v : Word) (c : Nat) : ShiftRegister := { value := v, count := c }

/-- The reset state with these registers. -/
def st (pc x y : Word) (osr : ShiftRegister) : State :=
  { State.reset with pc := pc, x := x, y := y, osr := osr }

/-- The same, with left shift. -/
def stLeft (pc x y : Word) (osr : ShiftRegister) : State :=
  { st pc x y osr with cfg := { jmpPin := none, shiftOsrRight := false } }

/-- The reset state with these pins and this configured pin. -/
def stPins (pins : Word) (p : Option (BitVec 5)) : State :=
  { State.reset with pins := pins, cfg := { jmpPin := p, shiftOsrRight := true } }

/-- The next state of one step that runs the word. -/
def runWord (w : OpWord) (s : State) : Option State :=
  match step (s.withFetchWord 16 w.toNat) with
  | .next t => some t
  | .fault _ => none
  | .refused _ => none

/-- The fault of one step that runs the word. -/
def faultOfWord (w : OpWord) (s : State) : Option Fault :=
  match step (s.withFetchWord 16 w.toNat) with
  | .next _ => none
  | .fault f => some f
  | .refused _ => none

/-- `PC`, `X` and `Y` after the step. -/
def xyAfter (w : OpWord) (s : State) : Option (Word × Word × Word) :=
  (runWord w s).map fun t => (t.pc, t.x, t.y)

/-- `PC` and the OSR after the step. -/
def osrAfter (w : OpWord) (s : State) : Option (Word × ShiftRegister) :=
  (runWord w s).map fun t => (t.pc, t.osr)

/-! ## Well-formed terms -/

theorem test_wellFormed_refuses_count_0 :
    (Instr.outPins 0).wellFormed = false ∧
    (Instr.outX 0).wellFormed = false ∧
    (Instr.outY 0).wellFormed = false ∧
    (Instr.outNull 0).wellFormed = false ∧
    (Instr.outPindirs 0).wellFormed = false ∧
    (Instr.outPc 0).wellFormed = false ∧
    (Instr.outIsr 0).wellFormed = false ∧
    (Instr.outExec 0).wellFormed = false := by decide

theorem test_wellFormed_refuses_count_33 :
    (Instr.outPins 33).wellFormed = false ∧
    (Instr.outX 33).wellFormed = false ∧
    (Instr.outY 33).wellFormed = false ∧
    (Instr.outNull 33).wellFormed = false ∧
    (Instr.outPindirs 33).wellFormed = false ∧
    (Instr.outPc 33).wellFormed = false ∧
    (Instr.outIsr 33).wellFormed = false ∧
    (Instr.outExec 33).wellFormed = false := by decide

theorem test_wellFormed_accepts_1_and_32 :
    (Instr.outPins 1).wellFormed = true ∧
    (Instr.outPins 32).wellFormed = true ∧
    (Instr.outX 1).wellFormed = true ∧
    (Instr.outX 32).wellFormed = true ∧
    (Instr.outY 1).wellFormed = true ∧
    (Instr.outY 32).wellFormed = true ∧
    (Instr.outNull 1).wellFormed = true ∧
    (Instr.outNull 32).wellFormed = true ∧
    (Instr.outPindirs 1).wellFormed = true ∧
    (Instr.outPindirs 32).wellFormed = true ∧
    (Instr.outPc 1).wellFormed = true ∧
    (Instr.outPc 32).wellFormed = true ∧
    (Instr.outIsr 1).wellFormed = true ∧
    (Instr.outIsr 32).wellFormed = true ∧
    (Instr.outExec 1).wellFormed = true ∧
    (Instr.outExec 32).wellFormed = true := by decide


/-! ## Decoding of words written out from the encoding (30_encoding.md rules R49 to R54) -/

theorem test_decode_jmp :
    decode 0b000_00000_000_00101#16 = Instr.jmp 5#5 := by decide

theorem test_decode_jmpNotX :
    decode 0b000_00000_001_00011#16 = Instr.jmpNotX 3#5 := by decide

theorem test_decode_jmpXDec :
    decode 0b000_00000_010_00111#16 = Instr.jmpXDec 7#5 := by decide

theorem test_decode_jmpNotY :
    decode 0b000_00000_011_00111#16 = Instr.jmpNotY 7#5 := by decide

theorem test_decode_jmpYDec :
    decode 0b000_00000_100_00010#16 = Instr.jmpYDec 2#5 := by decide

theorem test_decode_jmpXNeY :
    decode 0b000_00000_101_00100#16 = Instr.jmpXNeY 4#5 := by decide

theorem test_decode_jmpPin :
    decode 0b000_00000_110_00011#16 = Instr.jmpPin 3#5 := by decide

theorem test_decode_jmpNotOsre :
    decode 0b000_11111_111_11111#16 = Instr.jmpNotOsre 31#5 := by decide

theorem test_decode_outPins :
    decode 0b011_00000_000_00000#16 = Instr.outPins 32 := by decide

theorem test_decode_outX :
    decode 0b011_00000_001_00011#16 = Instr.outX 3 := by decide

theorem test_decode_outY :
    decode 0b011_00000_010_11111#16 = Instr.outY 31 := by decide

theorem test_decode_outNull :
    decode 0b011_00000_011_01000#16 = Instr.outNull 8 := by decide

theorem test_decode_outPindirs :
    decode 0b011_00000_100_00011#16 = Instr.outPindirs 3 := by decide

theorem test_decode_outPc :
    decode 0b011_00000_101_00101#16 = Instr.outPc 5 := by decide

theorem test_decode_outIsr :
    decode 0b011_00000_110_00101#16 = Instr.outIsr 5 := by decide

theorem test_decode_outExec :
    decode 0b011_11111_111_10000#16 = Instr.outExec 16 := by decide

theorem test_decode_reserved001 :
    decode 0b001_1111111111111#16 = Instr.reserved001 0x1FFF#13 := by decide

theorem test_decode_reserved010 :
    decode 0b010_0000000000000#16 = Instr.reserved010 0#13 := by decide

theorem test_decode_reserved100 :
    decode 0b100_1111111111111#16 = Instr.reserved100 0x1FFF#13 := by decide

theorem test_decode_reserved101 :
    decode 0b101_0000001000010#16 = Instr.reserved101 0x42#13 := by decide

theorem test_decode_reserved110 :
    decode 0b110_0000000000000#16 = Instr.reserved110 0#13 := by decide

theorem test_decode_reserved111 :
    decode 0b111_0000000000001#16 = Instr.reserved111 1#13 := by decide

-- 30_encoding.md rule R61; O4, J16
theorem test_encode_source_words :
    encode (.outPindirs 3) = 0x6083#16 ∧ encode (.outX 3) = 0x6023#16 ∧
    encode (.outIsr 5) = 0x60C5#16 ∧ encode (.outPins 32) = 0x6000#16 ∧ encode (.jmpXNeY 4#5) = 0x00A4#16 := by decide

theorem test_decodeTableWord_rows :
    decodeTableWord 16 0x60E0 = some (.outExec 32) ∧ decodeTableWord 16 0x00C0 = some (.jmpPin 0#5) ∧
    decodeTableWord 32 0x0020 = none := by decide


/-! ## JMP: one step each -/

-- J2
theorem test_jmp_J2 :
    xyAfter 0x001F#16 (st 0 9 7 (sr 0 0)) = some (31, 9, 7) := by decide

-- J3
theorem test_jmp_J3_delay_ignored :
    xyAfter 0x1F00#16 (st 3 0 0 (sr 0 0)) = some (0, 0, 0) := by decide

-- J4
theorem test_jmpNotX_J4 :
    xyAfter 0x0023#16 (st 1 0 0 (sr 0 0)) = some (3, 0, 0) := by decide

-- J6
theorem test_jmpNotX_J6 :
    xyAfter 0x0023#16 (st 1 0xFFFF_FFFF 0 (sr 0 0)) = some (2, 0xFFFF_FFFF, 0) := by decide

-- J9
theorem test_jmpXDec_J9_zero_stays :
    xyAfter 0x0040#16 (st 0 0 0 (sr 0 0)) = some (1, 0, 0) := by decide

-- J10
theorem test_jmpXDec_J10 :
    xyAfter 0x0047#16 (st 2 0xFFFF_FFFF 0 (sr 0 0)) = some (7, 0xFFFF_FFFE, 0) := by decide

-- J11
theorem test_jmpNotY_J11 :
    xyAfter 0x0067#16 (st 0 0 0 (sr 0 0)) = some (7, 0, 0) := by decide

-- J12
theorem test_jmpNotY_J12 :
    xyAfter 0x0067#16 (st 0 0 5 (sr 0 0)) = some (1, 0, 5) := by decide

-- J14
theorem test_jmpYDec_J14_zero_stays :
    xyAfter 0x0082#16 (st 4 0 0 (sr 0 0)) = some (5, 0, 0) := by decide

-- J15
theorem test_jmpYDec_J15 :
    xyAfter 0x0082#16 (st 4 0 0x8000_0000 (sr 0 0)) = some (2, 0, 0x7FFF_FFFF) := by decide

-- J17
theorem test_jmpXNeY_J17 :
    xyAfter 0x00A4#16 (st 2 0x22 0x22 (sr 0 0)) = some (3, 0x22, 0x22) := by decide

-- J18
theorem test_jmpXNeY_J18 :
    xyAfter 0x00A4#16 (st 2 0 0x8000_0000 (sr 0 0)) = some (4, 0, 0x8000_0000) := by decide

-- J20, J21
theorem test_jmpPin_J20_J21 :
    (runWord 0x00C3#16 (stPins 3 (some 2#5))).map (·.pc) = some 1 ∧
    (runWord 0x00C3#16 (stPins 0x8000_0000 (some 31#5))).map (·.pc) = some 3 := by decide

-- J22
theorem test_jmpPin_J22_missing :
    faultOfWord 0x00C3#16 (stPins 0xFFFF_FFFF none) = some .missingPin := by decide

-- J27
theorem test_jmpNotOsre_J27 :
    osrAfter 0x00E0#16 (st 1 0 0 (sr 0xFFFF_FFFF 32)) = some (2, sr 0xFFFF_FFFF 32) := by decide

-- J28
theorem test_jmpNotOsre_J28 :
    osrAfter 0x00E9#16 (st 1 0 0 (sr 0 31)) = some (9, sr 0 31) := by decide


/-! ## OUT: one step each -/

-- O2
theorem test_outPins_O2 :
    (runWord 0x6004#16 { st 0 0 0 (sr 0xABCD_1234 0) with pins := 0xFFFF_FFFF }).map
      (fun t => (t.pins, t.osr)) = some (0xFFFF_FFF4, sr 0x0ABC_D123 4) := by decide

-- O5
theorem test_outPins_O5_whole_word_left :
    (runWord 0x6000#16 { stLeft 0 0 0 (sr 0xABCD_1234 7) with pins := 0xFFFF }).map
      (fun t => (t.pins, t.osr)) = some (0xABCD_1234, sr 0 32) := by decide

-- S2, O6
theorem test_outX_S2 :
    (runWord 0x6023#16 (st 0 0 0 (sr 0xFFFF_FFFF 0))).map (fun t => (t.x, t.osr)) =
      some (7, sr 0x1FFF_FFFF 3) := by decide

-- O10
theorem test_outX_O10 :
    (runWord 0x6030#16 (stLeft 0 1 0 (sr 0x1234_5678 20))).map (fun t => (t.x, t.osr)) =
      some (0x1234, sr 0x5678_0000 32) := by decide

-- O13
theorem test_outY_O13 :
    (runWord 0x6048#16 (st 1 0x11 0 (sr 0x0522 8))).map (fun t => (t.pc, t.x, t.y, t.osr)) =
      some (2, 0x11, 0x22, sr 5 16) := by decide

-- O14
theorem test_outY_O14 :
    (runWord 0x605F#16 (stLeft 0 0 0 (sr 0xFFFF_FFFF 0))).map (fun t => (t.y, t.osr)) =
      some (0x7FFF_FFFF, sr 0x8000_0000 31) := by decide

-- O15
theorem test_outNull_O15 :
    osrAfter 0x6068#16 (stLeft 0 0 0 (sr 0x1234_5678 0)) = some (1, sr 0x3456_7800 8) := by decide

-- O17
theorem test_outNull_O17 :
    osrAfter 0x6061#16 (st 0 0 0 (sr 0xA5A5_A5A5 31)) = some (1, sr 0x52D2_D2D2 32) := by decide

-- S1, O18
theorem test_outPindirs_S1 :
    (runWord 0x6083#16 (stLeft 0 0 0 (sr 0x8000_0000 5))).map (fun t => (t.pindirs, t.osr)) =
      some (4, sr 0 8) := by decide

-- O20
theorem test_outPindirs_O20 :
    (runWord 0x6088#16 { st 0 0 0 (sr 0xF0 0) with pindirs := 0xFFFF_0F0F }).map
      (fun t => (t.pindirs, t.pins)) = some (0xFFFF_0FF0, 0) := by decide

-- O22
theorem test_outPc_O22 :
    osrAfter 0x60A8#16 (st 1 0 0 (sr 0xFF 0)) = some (255, sr 0 8) := by decide

-- O23
theorem test_outPc_O23 :
    osrAfter 0x60A0#16 (st 1 0 0 (sr 0xDEAD_BEEF 0)) = some (0xDEAD_BEEF, sr 0 32) := by decide

-- S3, O25
theorem test_outIsr_S3 :
    (runWord 0x60C5#16 { st 0 0 0 (sr 0xDEAD_BEEF 0) with isr := sr 0x1234_4567 32 }).map
      (fun t => (t.isr, t.osr)) = some (sr 0xF 5, sr 0x06F5_6DF7 5) := by decide

-- O27
theorem test_outIsr_O27 :
    (runWord 0x60C0#16 { st 0 0 0 (sr 0xDEAD_BEEF 4) with isr := sr 0xFFFF_FFFF 9 }).map
      (fun t => (t.isr, t.osr)) = some (sr 0xDEAD_BEEF 32, sr 0 32) := by decide

-- O29
theorem test_outExec_O29 :
    osrAfter 0x60F0#16 (st 0 0 0 (sr 0xE001_0000 0)) = some (1, sr 0xE001 16) := by decide

-- 95_test_vectors.md section 2.6, for the increment
theorem test_outExec_pc_wraps :
    ((match exec (.outExec 1) (st 0xFFFF_FFFF 0 0 (sr 0 0)) with
      | .next t => some (t.pc, t.osr)
      | .fault _ => none
      | .refused _ => none) : Option (Word × ShiftRegister)) = some (0, sr 0 1) := by decide


/-! ## Reserved words and the fetch -/

-- F1
theorem test_reserved001 :
    faultOfWord 0x2000#16 (st 0 3 0 (sr 0 0)) = some (.unknownOpcode 0x2000#16) := by decide

-- F4
theorem test_reserved010 :
    faultOfWord 0x5FFF#16 (st 0 3 0 (sr 0 0)) = some (.unknownOpcode 0x5FFF#16) := by decide

-- F5
theorem test_reserved100 :
    faultOfWord 0x8000#16 (st 0 3 0 (sr 0 0)) = some (.unknownOpcode 0x8000#16) := by decide

-- F7
theorem test_reserved101 :
    faultOfWord 0xA042#16 (st 0 3 0 (sr 0 0)) = some (.unknownOpcode 0xA042#16) := by decide

-- F8
theorem test_reserved110 :
    faultOfWord 0xC000#16 (st 0 3 0 (sr 0 0)) = some (.unknownOpcode 0xC000#16) := by decide

-- F10
theorem test_reserved111 :
    faultOfWord 0xFFFF#16 (st 0 3 0 (sr 0 0)) = some (.unknownOpcode 0xFFFF#16) := by decide

-- F15
theorem test_fetch_past_the_end_F15 :
    ({ st 1 0 0 (sr 0 0) with program := [0#16] } : State).faultPort = 1#2 := by decide

-- F16
theorem test_fetch_empty_program_F16 :
    State.reset.faultPort = 1#2 := by decide


/-! ## Shift datapath (95_test_vectors.md section 2.3) -/

-- H5, H6
theorem test_shiftOut_H5_H6 :
    shiftOut (sr 0x1234_5678 0) 32 true = (0x1234_5678, sr 0 32) ∧
    shiftOut (sr 0x1234_5678 0) 32 false = (0x1234_5678, sr 0 32) := by decide

-- H11, H12
theorem test_shiftOut_H11_H12 :
    shiftOut (sr 0x8000_0001 32) 31 false = (0x4000_0000, sr 0x8000_0000 32) ∧
    shiftOut (sr 0x8000_0001 10) 31 true = (1, sr 1 32) := by decide

-- computed by hand from 40_shift_datapath.md rule R71
theorem test_shiftIn_by_hand :
    shiftIn (sr 0x0000_00A5 8) 0x13 4 false = sr 0x0000_0A53 12 ∧
    shiftIn (sr 0x0000_00A5 30) 0x13 4 true = sr 0x3000_000A 32 := by decide


/-! ## The host's side (95_test_vectors.md section 2.5) -/

-- Q3
theorem test_run_Q3_zero_cycles_runs_one_step :
    (emulate 9 [0x0040#16, 0x0001#16] (clockCyclesReached 0#64) { x := 3 }).last.x = 2 := by decide

-- Q7
theorem test_singleStep_Q7 :
    (singleStep { st 0 1 0 (sr 0 0) with program := [0x0040#16, 0x0001#16] }).last.x = 0 := by decide

-- 10_state.md rule R20
theorem test_pairs_do_not_show_the_configuration :
    (emulate 1 [0x0023#16] (clockCyclesReached 1#64) {} { jmpPin := some 5#5, shiftOsrRight := false }).pairs =
    [({}, { pc := 3#32 })] := by decide


/-! ## Witnesses: the hypotheses of the statements are met -/

theorem witness_DecodeEncodeRoundTrip :
    (1 ≤ 1 ∧ 1 ≤ 32) ∧ (1 ≤ 32 ∧ 32 ≤ 32) ∧ (Instr.outX 1).wellFormed = true ∧ (Instr.outX 32).wellFormed = true ∧
    (Instr.jmp 31#5).wellFormed = true ∧ (Instr.reserved111 0#13).wellFormed = true := by decide

theorem witness_EncodeDecodeGivesTheWordBack :
    ReservedClass 0x2000#16 ∧ ReservedClass 0xFFFF#16 ∧ ¬ ReservedClass 0x1FFF#16 ∧ ¬ ReservedClass 0x6000#16 := by decide

theorem witness_DecodedInstructionsAreWellFormed :
    classOf 0x6000#16 = 3 ∧ classOf 0x7FFF#16 = 3 := by decide

theorem witness_DelayBitsChangeNothing :
    0x7F23#16 &&& 0xE0FF#16 = 0x6023#16 &&& 0xE0FF#16 ∧ ¬ ReservedClass 0x7F23#16 ∧
    0x1F00#16 &&& 0xE0FF#16 = 0x0000#16 &&& 0xE0FF#16 ∧ ¬ ReservedClass 0x1F00#16 := by decide

/-- A legal state with the one-word program `w` and `PC = 0`. -/
def one (w : OpWord) : State := { st 0 3 0 (sr 0x8000_0001 31) with program := [w] }

/-- The same with a configured pin. -/
def onePin (w : OpWord) : State := { one w with cfg := { jmpPin := some 31#5, shiftOsrRight := true } }

theorem witness_UnknownOpcodeExactlyOnReservedClasses :
    (one 0xA042#16).legal = true ∧ (one 0xA042#16).program[(one 0xA042#16).pc.toNat]? = some 0xA042#16 ∧
    ReservedClass 0xA042#16 ∧ (one 0x6001#16).program[(one 0x6001#16).pc.toNat]? = some 0x6001#16 ∧
    ¬ ReservedClass 0x6001#16 := by decide

theorem witness_JmpAlwaysBranches :
    0x1F1F#16 &&& 0xE0E0#16 = 0x0000#16 := by decide

theorem witness_JmpNotXBranchesOnZero :
    0x1F3F#16 &&& 0xE0E0#16 = 0x0020#16 := by decide

theorem witness_JmpNotYBranchesOnZero :
    0x0067#16 &&& 0xE0E0#16 = 0x0060#16 := by decide

theorem witness_JmpXNeYBranchesOnDifference :
    0x00A4#16 &&& 0xE0E0#16 = 0x00A0#16 := by decide

theorem witness_JmpNotOsreBranchesWhileBitsRemain :
    0x1FFF#16 &&& 0xE0E0#16 = 0x00E0#16 := by decide

theorem witness_JmpXDecDecrementsAndBranches :
    0x0047#16 &&& 0xE0E0#16 = 0x0040#16 ∧ (one 0#16).x ≠ 0#32 ∧ State.reset.x = 0#32 ∧
    0 ≤ (one 0#16).x.toNat ∧ 3 ≤ (one 0#16).x.toNat := by decide

theorem witness_JmpYDecDecrementsAndBranches :
    0x0082#16 &&& 0xE0E0#16 = 0x0080#16 ∧ (st 0 0 0xFFFF_FFFF (sr 0 0)).y ≠ 0#32 ∧ State.reset.y = 0#32 ∧
    0 ≤ (st 0 0 3 (sr 0 0)).y.toNat ∧ 3 ≤ (st 0 0 3 (sr 0 0)).y.toNat := by decide

theorem witness_JmpPinBranchesOnTheConfiguredPin :
    0x00C3#16 &&& 0xE0E0#16 = 0x00C0#16 ∧ (onePin 0#16).cfg.jmpPin = some 31#5 ∧
    (one 0#16).cfg.jmpPin = none := by decide

theorem witness_OutPinsReplacesTheLowBits :
    0x6004#16 &&& 0xE0E0#16 = 0x6000#16 ∧ (1 ≤ 1 ∧ 1 ≤ 32) ∧ (1 ≤ 32 ∧ 32 ≤ 32) := by decide

theorem witness_OutXReplacesX :
    0x7F23#16 &&& 0xE0E0#16 = 0x6020#16 ∧ (1 ≤ 1 ∧ 1 ≤ 32) ∧ (1 ≤ 32 ∧ 32 ≤ 32) := by decide

theorem witness_OutYReplacesY :
    0x6040#16 &&& 0xE0E0#16 = 0x6040#16 ∧ (1 ≤ 1 ∧ 1 ≤ 32) ∧ (1 ≤ 32 ∧ 32 ≤ 32) := by decide

theorem witness_OutNullOnlyShiftsTheOsr :
    0x607F#16 &&& 0xE0E0#16 = 0x6060#16 ∧ (1 ≤ 1 ∧ 1 ≤ 32) ∧ (1 ≤ 32 ∧ 32 ≤ 32) := by decide

theorem witness_OutPindirsReplacesTheLowBits :
    0x6083#16 &&& 0xE0E0#16 = 0x6080#16 ∧ (1 ≤ 1 ∧ 1 ≤ 32) ∧ (1 ≤ 32 ∧ 32 ≤ 32) := by decide

theorem witness_OutPcJumpsToTheExtractedValue :
    0x60A5#16 &&& 0xE0E0#16 = 0x60A0#16 ∧ (1 ≤ 1 ∧ 1 ≤ 32) ∧ (1 ≤ 32 ∧ 32 ≤ 32) := by decide

theorem witness_OutIsrAssignsTheIsr :
    0x60C5#16 &&& 0xE0E0#16 = 0x60C0#16 ∧ (1 ≤ 1 ∧ 1 ≤ 32) ∧ (1 ≤ 32 ∧ 32 ≤ 32) := by decide

theorem witness_OutExecDiscardsTheWord :
    0x60F0#16 &&& 0xE0E0#16 = 0x60E0#16 ∧ (1 ≤ 1 ∧ 1 ≤ 32) ∧ (1 ≤ 32 ∧ 32 ≤ 32) := by decide

theorem witness_EveryOutCompletesAndShifts :
    (1 ≤ 1 ∧ 1 ≤ 32) ∧ (1 ≤ 32 ∧ 32 ≤ 32) := by decide

theorem witness_ShiftOutLosesNoBit :
    (1 ≤ 1 ∧ 1 ≤ 32) ∧ (1 ≤ 32 ∧ 32 ≤ 32) := by decide

theorem witness_ShiftInMergesTheBits :
    (1 ≤ 1 ∧ 1 ≤ 32) ∧ (1 ≤ 32 ∧ 32 ≤ 32) := by decide

theorem witness_TwoShiftsAreOneShift :
    1 ≤ 1 ∧ 1 ≤ 31 ∧ 1 + 31 ≤ 32 := by decide

theorem witness_RepeatedOutsSaturateTheCount :
    (one 0#16).osr.count ≤ 32 ∧ ∀ o ∈ [(OutDestination.x, 32), (.pins, 1), (.isr, 5)], 1 ≤ o.2 ∧ o.2 ≤ 32 := by decide

theorem witness_OsrCountNeverDecreasesInARun :
    core.run 0 State.reset = .next State.reset ∧ ∃ t, core.run 1 (one 0x6001#16) = .next t := ⟨rfl, _, rfl⟩

theorem witness_ProgramAndConfigurationConstantInARun :
    core.run 0 State.reset = .next State.reset ∧ ∃ t, core.run 2 (one 0x0000#16) = .next t := ⟨rfl, _, rfl⟩

theorem witness_EmptyAndFullPredicates :
    State.reset.legal = true ∧ (st 0 0 0 (sr 0 32)).legal = true := by decide

theorem witness_EachFieldHasOnlyItsNamedWriters :
    (∃ t, exec (.jmpXDec 0#5) (one 0#16) = .next t ∧ t.x ≠ (one 0#16).x) ∧
    (∃ t, exec (.outY 1) (one 0#16) = .next t ∧ t.y ≠ (one 0#16).y ∧ t.osr ≠ (one 0#16).osr) ∧
    (∃ t, exec (.outPins 1) (one 0#16) = .next t ∧ t.pins ≠ (one 0#16).pins) ∧
    (∃ t, exec (.outPindirs 1) (one 0#16) = .next t ∧ t.pindirs ≠ (one 0#16).pindirs) ∧
    ∃ t, exec (.outIsr 1) (one 0#16) = .next t ∧ t.isr ≠ (one 0#16).isr := ⟨⟨_, rfl, by decide⟩, ⟨_, rfl, by decide, by decide⟩, ⟨_, rfl, by decide⟩, ⟨_, rfl, by decide⟩,
    ⟨_, rfl, by decide⟩⟩

theorem witness_IsrIsReadByNoInstruction :
    ∀ n, Instr.outX 1 ≠ .outIsr n := by simp

theorem witness_PindirsGatesNothing :
    ∀ n, Instr.jmpPin 0#5 ≠ .outPindirs n := by simp

theorem witness_OsrIsReadOnlyByOutsAndItsCountByJmpNotOsre :
    Condition.xZero ≠ .osrNotEmpty := by decide

theorem witness_ConfigurationIsReadOnlyWhereNamed :
    (∀ a, Instr.outX 1 ≠ .jmpPin a) ∧ ∀ d n, Instr.jmpPin 0#5 ≠ Instr.ofOut d n := ⟨by simp, fun d n h => by cases d <;> cases h⟩

theorem witness_ControlTransfersAreTheNamedOnes :
    ((Instr.jmp 31#5).wellFormed = true ∧ ∃ t, exec (.jmp 31#5) (one 0#16) = .next t ∧ t.pc ≠ (one 0#16).pc + 1#32) ∧
    (Instr.outPc 32).wellFormed = true ∧ ∃ t, exec (.outPc 32) (one 0#16) = .next t ∧ t.pc ≠ (one 0#16).pc + 1#32 := ⟨⟨rfl, _, rfl, by decide⟩, rfl, _, rfl, by decide⟩

theorem witness_StepRunsTheDecodedInstruction :
    State.reset.legal = true ∧ State.reset.program.length ≤ State.reset.pc.toNat ∧
    (one 0xFFFF#16).legal = true ∧ (one 0xFFFF#16).program[(one 0xFFFF#16).pc.toNat]? = some 0xFFFF#16 ∧
    decodeResult 0xFFFF#16 = .error (.unknownOpcode 0xFFFF#16) ∧
    (one 0x6001#16).program[(one 0x6001#16).pc.toNat]? = some 0x6001#16 ∧ decodeResult 0x6001#16 = .ok (.outPins 1) := by decide

theorem witness_FetchReadsTheWordAtPc :
    ([] : List OpWord).length ≤ (0#32 : Word).toNat ∧ [7#16].length ≤ (1#32 : Word).toNat ∧
    (0#32 : Word).toNat < [7#16].length ∧ State.reset.program = [] := by decide

theorem witness_OutOfRangeFaultsAtTheFollowingFetch :
    State.reset.legal = true ∧ ∃ t, step (one 0x001F#16) = .next t ∧ t.program.length ≤ t.pc.toNat := ⟨rfl, _, rfl, by decide⟩

theorem witness_MissingPinExactlyWhenJmpPinExecutes :
    (one 0x00C3#16).legal = true ∧ (one 0x00C3#16).cfg.jmpPin = none ∧
    ∃ w, (one 0x00C3#16).program[(one 0x00C3#16).pc.toNat]? = some w ∧ w.toNat / 2 ^ 13 = 0 ∧ w.toNat / 2 ^ 5 % 8 = 6 := ⟨rfl, rfl, _, rfl, by decide, by decide⟩

theorem witness_FaultPriorityAndCompletion :
    State.reset.legal = true ∧ State.reset.program.length ≤ State.reset.pc.toNat ∧
    (one 0x3FFF#16).program[(one 0x3FFF#16).pc.toNat]? = some 0x3FFF#16 ∧ ReservedClass 0x3FFF#16 ∧
    (one 0x00DF#16).program[(one 0x00DF#16).pc.toNat]? = some 0x00DF#16 ∧ ¬ ReservedClass 0x00DF#16 ∧
    0x00DF#16 &&& 0xE0E0#16 = 0x00C0#16 ∧ (one 0x00DF#16).cfg.jmpPin = none ∧
    (onePin 0x00DF#16).program[(onePin 0x00DF#16).pc.toNat]? = some 0x00DF#16 ∧ (onePin 0x00DF#16).cfg.jmpPin ≠ none ∧
    (one 0x60C0#16).program[(one 0x60C0#16).pc.toNat]? = some 0x60C0#16 ∧ 0x60C0#16 &&& 0xE0E0#16 ≠ 0x00C0#16 := by decide

theorem witness_ReadyStatesAreThoseThatStep :
    ((one 0x6001#16).legal = true ∧ (one 0x6001#16).ready = true) ∧ State.reset.ready = false ∧
    (one 0x00C0#16).ready = false ∧ (onePin 0x00C0#16).ready = true ∧ (one 0xE000#16).ready = false := by decide

theorem witness_IllegalStatesAreRefused :
    step (st 0 0 0 (sr 0 33)) = .refused .illegalState ∧ 32 < (st 0 0 0 (sr 0 33)).osr.count ∧
    (st 0 0 0 (sr 0 32)).legal = true := ⟨rfl, by decide, rfl⟩

theorem witness_StepKeepsTheInvariant :
    (one 0x6001#16).Inv ∧ ∃ t, step (one 0x6001#16) = .next t := ⟨⟨rfl, by decide⟩, _, rfl⟩

theorem witness_WhatAProgramSeesFromReset :
    ({ State.reset with program := [0x0023#16], cfg := { jmpPin := none, shiftOsrRight := false } } : State) =
      { State.reset with program := [0x0023#16], cfg := { jmpPin := none, shiftOsrRight := false } } ∧
    RunConfig.default.jmpPin = none ∧ (onePin 0#16).cfg.jmpPin ≠ none ∧ (1 ≤ 1 ∧ 1 ≤ 32) ∧ (1 ≤ 32 ∧ 32 ≤ 32) ∧
    ∀ o ∈ [(OutDestination.pc, 32), (.isr, 1), (.pins, 5)], 1 ≤ o.2 ∧ o.2 ≤ 32 := by decide

theorem witness_APlacedWordIsTheOneRun :
    (one 0x6001#16).legal = true ∧ (1#32 : Word) ≠ ({ one 0#16 with program := [0#16, 1#16] } : State).pc ∧
    (1#32 : Word).toNat < ({ one 0#16 with program := [0#16, 1#16] } : State).program.length := by decide

theorem witness_ARunDeliversAChainOfPairs :
    ((runFrom (fun _ _ _ => false) 2 1 (one 0#16)).pairs[0]?).isSome = true ∧
    ((runFrom (fun _ _ _ => false) 2 1 (one 0#16)).pairs[1]?).isSome = true ∧
    (runFrom (clockCyclesReached 2#64) 5 1 (one 0#16)).ending = .stopped ∧
    (runFrom (fun _ _ _ => false) 5 1 (one 0x6001#16)).pairs.length < 5 ∧
    (runFrom (fun _ _ _ => false) 5 1 (one 0x6001#16)).ending ≠ .stopped := by decide

theorem witness_StatesAreEqualExactlyWhenTheirSevenFieldsAre :
    ∃ t, step (one 0x6001#16) = .next t ∧ t.toArchState ≠ (one 0x6001#16).toArchState := ⟨_, rfl, by decide⟩

theorem witness_TheStoppingPairIsTheLast :
    ((runFrom (clockCyclesReached 2#64) 5 1 (one 0#16)).pairs[1]?).isSome = true ∧
    (runFrom (clockCyclesReached 2#64) 5 1 (one 0#16)).ending = .stopped := by decide

theorem witness_ClockCyclesReachedRunsExactlyNSteps :
    1 ≤ (2#64).toNat ∧ ∃ t, core.run (2#64).toNat (one 0#16) = .next t := ⟨by decide, _, rfl⟩

theorem witness_SingleStepIsOneCycle :
    (∃ t, step (one 0x6001#16) = .next t) ∧ step State.reset = .fault (.programCounterOutOfRange 0#32) := ⟨⟨_, rfl⟩, rfl⟩

theorem witness_FaultsArePrecise :
    (runFrom (fun _ _ _ => false) 5 1 (one 0x6001#16)).ending = .faulted (.programCounterOutOfRange 1#32) ∧
    (runFrom (fun _ _ _ => false) 5 1 (one 0x6001#16)).pairs.length = 1 ∧ 1 < 5 ∧
    (runFrom (fun _ _ _ => false) 5 1 (one 0x6001#16)).ending ≠ .stopped ∧
    step ((one 0x6001#16).withArch (runFrom (fun _ _ _ => false) 5 1 (one 0x6001#16)).last) =
      .fault (.programCounterOutOfRange 1#32) ∧
    step State.reset = .fault (.programCounterOutOfRange 0#32) := ⟨by decide, by decide, by decide, by decide, rfl, rfl⟩

end Sys2Proof.Tests
end

/-!
SUPPORT. The statements about the state (10_state.md): who writes which field, who reads which field,
where `PC` goes, which states a step refuses, and the invariant of the machine.
-/

namespace Sys2Proof.Machine

open Sys2Proof.Certificates

/-! ## The three kinds of instruction -/

/-- Every row of the opcode table is a JMP, an OUT or a reserved class (R47). -/
theorem instr_cases (i : Instr) :
    (∃ c a, i = Instr.ofJmp c a) ∨ (∃ d n, i = Instr.ofOut d n) ∨ i.reserved = true := by
  cases i with
  | jmp a => exact .inl ⟨.always, a, rfl⟩
  | jmpNotX a => exact .inl ⟨.xZero, a, rfl⟩
  | jmpXDec a => exact .inl ⟨.xDecNonzero, a, rfl⟩
  | jmpNotY a => exact .inl ⟨.yZero, a, rfl⟩
  | jmpYDec a => exact .inl ⟨.yDecNonzero, a, rfl⟩
  | jmpXNeY a => exact .inl ⟨.xNeY, a, rfl⟩
  | jmpPin a => exact .inl ⟨.pin, a, rfl⟩
  | jmpNotOsre a => exact .inl ⟨.osrNotEmpty, a, rfl⟩
  | outPins n => exact .inr (.inl ⟨.pins, n, rfl⟩)
  | outX n => exact .inr (.inl ⟨.x, n, rfl⟩)
  | outY n => exact .inr (.inl ⟨.y, n, rfl⟩)
  | outNull n => exact .inr (.inl ⟨.null, n, rfl⟩)
  | outPindirs n => exact .inr (.inl ⟨.pindirs, n, rfl⟩)
  | outPc n => exact .inr (.inl ⟨.pc, n, rfl⟩)
  | outIsr n => exact .inr (.inl ⟨.isr, n, rfl⟩)
  | outExec n => exact .inr (.inl ⟨.exec, n, rfl⟩)
  | _ => exact .inr (.inr rfl)

@[simp] theorem exec_ofJmp (c : Condition) (a : BitVec 5) (s : State) :
    exec (Instr.ofJmp c a) s = jump c a s := by cases c <;> rfl

@[simp] theorem exec_ofOut (d : OutDestination) (n : Nat) (s : State) :
    exec (Instr.ofOut d n) s = shiftOutTo d n s := by cases d <;> rfl

theorem exec_of_reserved {i : Instr} (h : i.reserved = true) (s : State) :
    exec i s = .fault (.unknownOpcode (encode i)) := by
  cases i <;> simp only [Instr.reserved, Bool.false_eq_true] at h <;> rfl

@[simp] theorem wellFormed_ofJmp (c : Condition) (a : BitVec 5) :
    (Instr.ofJmp c a).wellFormed = true := by cases c <;> rfl

@[simp] theorem wellFormed_ofOut (d : OutDestination) (n : Nat) :
    (Instr.ofOut d n).wellFormed = wellFormedCount n := by cases d <;> rfl

theorem wellFormedCount_iff (n : Nat) : wellFormedCount n = true ↔ 1 ≤ n ∧ n ≤ 32 := by
  simp [wellFormedCount]

/-- Every word is a well-formed instruction: the count of an OUT is 1 to 32 (R53). -/
theorem decode_wellFormed (w : OpWord) : (decode w).wellFormed = true := by
  unfold decode
  split
  case h_1 => exact wellFormed_ofJmp ..
  case h_4 => rw [wellFormed_ofOut]; exact effectiveCount_wellFormed _
  all_goals rfl

/-! ## What an executed instruction can do -/

theorem shiftOutTo_next_iff {d : OutDestination} {n : Nat} {s t : State} :
    shiftOutTo d n s = .next t ↔ t = (route d (shiftOut s.osr n s.cfg.shiftOsrRight).1 n s).setOsr
      (shiftOut s.osr n s.cfg.shiftOsrRight).2 := by
  rw [shiftOutTo_eq, Host.Outcome.next.injEq, eq_comm]

/-- What an OUT changes at most: the OSR, its destination, and `PC`. -/
theorem shiftOutTo_frame {d : OutDestination} {n : Nat} {s t : State}
    (h : shiftOutTo d n s = .next t) :
    t.program = s.program ∧ t.cfg = s.cfg ∧ (d ≠ .x → t.x = s.x) ∧ (d ≠ .y → t.y = s.y) ∧
      (d ≠ .pins → t.pins = s.pins) ∧ (d ≠ .pindirs → t.pindirs = s.pindirs) ∧
      (d ≠ .isr → t.isr = s.isr) ∧ (d ≠ .pc → t.pc = nextPc s.pc) := by
  rw [shiftOutTo_next_iff] at h
  subst h
  exact (route_frame d _ n s).2

/-- An instruction that completes is a JMP or an OUT: a reserved row faults. -/
theorem exec_next {i : Instr} {s t : State} (h : exec i s = .next t) :
    (∃ c a, i = Instr.ofJmp c a ∧ jump c a s = .next t) ∨
      ∃ d n, i = Instr.ofOut d n ∧ shiftOutTo d n s = .next t := by
  rcases instr_cases i with ⟨c, a, rfl⟩ | ⟨d, n, rfl⟩ | hr
  · exact .inl ⟨c, a, rfl, exec_ofJmp c a s ▸ h⟩
  · exact .inr ⟨d, n, rfl, exec_ofOut d n s ▸ h⟩
  · rw [exec_of_reserved hr] at h
    cases h

theorem exec_not_refused (i : Instr) (s : State) (r : Refusal) : exec i s ≠ .refused r := by
  rcases instr_cases i with ⟨c, a, rfl⟩ | ⟨d, n, rfl⟩ | hr
  · rw [exec_ofJmp]
    exact jump_not_refused c a s r
  · simp [shiftOutTo_eq]
  · simp [exec_of_reserved hr]

/-- No instruction writes the inputs of the run (R20, R41). -/
theorem exec_program_cfg {i : Instr} {s t : State} (h : exec i s = .next t) :
    t.program = s.program ∧ t.cfg = s.cfg := by
  rcases exec_next h with ⟨c, a, -, hj⟩ | ⟨d, n, -, ho⟩
  · obtain ⟨-, -, -, -, hprogram, hcfg, -, -⟩ := jump_frame hj
    exact ⟨hprogram, hcfg⟩
  · obtain ⟨hprogram, hcfg, -⟩ := shiftOutTo_frame ho
    exact ⟨hprogram, hcfg⟩

/-! ## The shift counts -/

/-- An OUT leaves legal counts: the OSR's saturates at 32 (R69), the ISR's is kept or is `n`. -/
theorem shiftOutTo_keeps_legal {d : OutDestination} {n : Nat} {s t : State} (hn : n ≤ 32)
    (hs : s.legal = true) (h : shiftOutTo d n s = .next t) : t.legal = true := by
  rw [shiftOutTo_next_iff] at h
  subst h
  rw [legal_iff_counts_le] at hs ⊢
  refine ⟨?_, ?_⟩
  · simpa using saturate_le s.osr.count n
  · cases d
    case isr => exact hn
    all_goals exact hs.2

theorem exec_keeps_legal {i : Instr} {s t : State} (hi : i.wellFormed = true)
    (hs : s.legal = true) (h : exec i s = .next t) : t.legal = true := by
  rcases exec_next h with ⟨c, a, -, hj⟩ | ⟨d, n, rfl, ho⟩
  · obtain ⟨-, -, hosr, hisr, -⟩ := jump_frame hj
    rw [legal_iff_counts_le, hosr, hisr, ← legal_iff_counts_le]
    exact hs
  · rw [wellFormed_ofOut, wellFormedCount_iff] at hi
    exact shiftOutTo_keeps_legal hi.2 hs ho

/-- A step is refused exactly in a state that is not legal (R26). -/
theorem step_refused_iff (s : State) (r : Refusal) :
    step s = .refused r ↔ r = .illegalState ∧ s.legal = false := by
  unfold step
  split
  case isFalse hl => simp [hl, eq_comm]
  case isTrue hl =>
    simp only [hl, Bool.true_eq_false, and_false, iff_false]
    split
    · simp [raiseFault]
    · split
      · simp [raiseFault]
      · exact exec_not_refused _ s r

/-! ## The value OUT extracts -/

/-- What leaves the OSR is the spec's arithmetic of it (R67, R68). -/
theorem shiftOut_fst_eq_extracted (s : State) {n : Nat} (hn : n ≤ 32) :
    (shiftOut s.osr n s.cfg.shiftOsrRight).1 = extracted s n := by
  have harith : (shiftOut s.osr n s.cfg.shiftOsrRight).1.toNat =
      if s.cfg.shiftOsrRight then s.osr.value.toNat % 2 ^ n
        else s.osr.value.toNat / 2 ^ (32 - n) := by
    cases s.cfg.shiftOsrRight with
    | true => exact (shiftOut_right s.osr n hn).1
    | false => exact (shiftOut_left s.osr n).1
  rw [extracted, ← harith, BitVec.ofNat_toNat, BitVec.setWidth_eq]

/-! ## Changes of a field that an instruction does not look at -/

/-- The change `f` of a state passes through the fields every JMP works on: it keeps `PC`, `X` and `Y`,
and writing one of them before or after it makes no difference. -/
structure IsCarried (f : State → State) : Prop where
  pc : ∀ s, (f s).pc = s.pc
  x : ∀ s, (f s).x = s.x
  y : ∀ s, (f s).y = s.y
  setPc : ∀ s v, (f s).setPc v = f (s.setPc v)
  setX : ∀ s v, (f s).setX v = f (s.setX v)
  setY : ∀ s v, (f s).setY v = f (s.setY v)

theorem isCarried_isr (r : ShiftRegister) : IsCarried fun t => { t with isr := r } := by
  constructor <;> intros <;> rfl

theorem isCarried_osr (r : ShiftRegister) : IsCarried fun t => { t with osr := r } := by
  constructor <;> intros <;> rfl

theorem isCarried_osrValue (v : Word) :
    IsCarried fun t => { t with osr := { t.osr with value := v } } := by
  constructor <;> intros <;> rfl

theorem isCarried_pindirs (v : Word) : IsCarried fun t => { t with pindirs := v } := by
  constructor <;> intros <;> rfl

theorem isCarried_jmpPin (p : Option (BitVec 5)) :
    IsCarried fun t => { t with cfg := { t.cfg with jmpPin := p } } := by
  constructor <;> intros <;> rfl

theorem isCarried_shiftOsrRight (b : Bool) :
    IsCarried fun t => { t with cfg := { t.cfg with shiftOsrRight := b } } := by
  constructor <;> intros <;> rfl

theorem IsCarried.advancePc {f : State → State} (hf : IsCarried f) (s : State) :
    (f s).advancePc = f s.advancePc := by
  rw [State.advancePc, hf.setPc, hf.pc, State.advancePc]

theorem evaluate_carries {f : State → State} (hf : IsCarried f) (c : Condition) (s : State)
    (hpin : c = .pin → (f s).pins = s.pins ∧ (f s).cfg.jmpPin = s.cfg.jmpPin)
    (hosr : c = .osrNotEmpty → (f s).osr.count = s.osr.count) :
    evaluate c (f s) = (evaluate c s).map (Prod.map id f) := by
  cases c with
  | always => rfl
  | xZero => simp [evaluate, hf.x, Except.map]
  | xDecNonzero =>
    simp only [evaluate, decNonzero, hf.x, hf.setX, Except.map]
    split <;> rfl
  | yZero => simp [evaluate, hf.y, Except.map]
  | yDecNonzero =>
    simp only [evaluate, decNonzero, hf.y, hf.setY, Except.map]
    split <;> rfl
  | xNeY => simp [evaluate, hf.x, hf.y, Except.map]
  | pin =>
    obtain ⟨hpins, hjmpPin⟩ := hpin rfl
    simp only [evaluate, hpins, hjmpPin]
    split <;> rfl
  | osrNotEmpty => simp [evaluate, State.osrEmpty, isEmpty, hosr rfl, Except.map]

/-- A JMP carries along a change it does not look at: `PIN` looks at `PINS` and the configured pin, and
`!OSRE` at the OSR's count. -/
theorem jump_carries {f : State → State} (hf : IsCarried f) (c : Condition) (a : BitVec 5) (s : State)
    (hpin : c = .pin → (f s).pins = s.pins ∧ (f s).cfg.jmpPin = s.cfg.jmpPin)
    (hosr : c = .osrNotEmpty → (f s).osr.count = s.osr.count) :
    jump c a (f s) = mapState f (jump c a s) := by
  unfold jump
  rw [evaluate_carries hf c s hpin hosr]
  rcases evaluate c s with e | ⟨_ | _, s1⟩
  · rfl
  · exact congrArg _ (hf.advancePc s1)
  · exact congrArg _ (hf.setPc s1 _)

/-- An OUT carries along a change that its routing carries along and that is neither to the OSR nor to the
shift direction. -/
theorem shiftOutTo_carries {f : State → State} {d : OutDestination} {n : Nat} {s : State}
    (hosr : (f s).osr = s.osr) (hright : (f s).cfg.shiftOsrRight = s.cfg.shiftOsrRight)
    (hroute : ∀ ext, route d ext n (f s) = f (route d ext n s))
    (hsetOsr : ∀ u r, (f u).setOsr r = f (u.setOsr r)) :
    shiftOutTo d n (f s) = mapState f (shiftOutTo d n s) := by
  rw [shiftOutTo_eq, shiftOutTo_eq, hosr, hright, hroute, hsetOsr, mapState]

theorem exec_reserved_carries {i : Instr} (hi : i.reserved = true) (f : State → State) (s : State) :
    exec i (f s) = mapState f (exec i s) := by
  rw [exec_of_reserved hi, exec_of_reserved hi, mapState]

theorem route_isr_carries {d : OutDestination} (hd : d ≠ .isr) (ext : Word) (n : Nat) (s : State)
    (r : ShiftRegister) : route d ext n { s with isr := r } = { route d ext n s with isr := r } := by
  cases d
  case isr => exact absurd rfl hd
  all_goals rfl

theorem route_pindirs_carries {d : OutDestination} (hd : d ≠ .pindirs) (ext : Word) (n : Nat)
    (s : State) (v : Word) :
    route d ext n { s with pindirs := v } = { route d ext n s with pindirs := v } := by
  cases d
  case pindirs => exact absurd rfl hd
  all_goals rfl

theorem route_jmpPin_carries (d : OutDestination) (ext : Word) (n : Nat) (s : State)
    (p : Option (BitVec 5)) :
    route d ext n { s with cfg := { s.cfg with jmpPin := p } } =
      { route d ext n s with cfg := { (route d ext n s).cfg with jmpPin := p } } := by
  cases d <;> rfl

end Sys2Proof.Machine

namespace Sys2Proof.Certificates

open Sys2Proof.Machine

/-- Settles O48: the decoder bounds the count of an OUT, and no instruction writes the program. -/
theorem stepKeepsTheInvariant : Obligations.StepKeepsTheInvariant := by
  rintro s t ⟨hlegal, hwf⟩ hstep
  obtain ⟨-, w, -, -, hexec⟩ := step_next hstep
  refine ⟨exec_keeps_legal (decode_wellFormed w) hlegal hexec, ?_⟩
  rw [(exec_program_cfg hexec).1]
  exact hwf

/-- Settles O32: the frame of a JMP and the frame of an OUT, read by contraposition. -/
theorem eachFieldHasOnlyItsNamedWriters : Obligations.EachFieldHasOnlyItsNamedWriters := by
  intro i s t h
  obtain ⟨hprogram, hcfg⟩ := exec_program_cfg h
  have hread : ∀ a, memRead t.program a = memRead s.program a := fun a => by rw [hprogram]
  rcases exec_next h with ⟨c, a, rfl, hj⟩ | ⟨d, n, rfl, ho⟩
  · obtain ⟨hpins, hpindirs, hosr, hisr, -, -, hx, hy⟩ := jump_frame hj
    refine ⟨fun hne => ?_, fun hne => ?_, fun hne => absurd hpins hne,
      fun hne => absurd hpindirs hne, fun hne => absurd hosr hne, fun hne => absurd hisr hne,
      hprogram, hcfg, hread⟩
    · obtain rfl : c = .xDecNonzero := not_imp_comm.mp hx hne
      exact .inl ⟨a, rfl⟩
    · obtain rfl : c = .yDecNonzero := not_imp_comm.mp hy hne
      exact .inl ⟨a, rfl⟩
  · obtain ⟨-, -, hx, hy, hpins, hpindirs, hisr, -⟩ := shiftOutTo_frame ho
    refine ⟨fun hne => ?_, fun hne => ?_, fun hne => ?_, fun hne => ?_, fun _ => ⟨d, n, rfl⟩,
      fun hne => ?_, hprogram, hcfg, hread⟩
    · obtain rfl : d = .x := not_imp_comm.mp hx hne
      exact .inr ⟨n, rfl⟩
    · obtain rfl : d = .y := not_imp_comm.mp hy hne
      exact .inr ⟨n, rfl⟩
    · obtain rfl : d = .pins := not_imp_comm.mp hpins hne
      exact ⟨n, rfl⟩
    · obtain rfl : d = .pindirs := not_imp_comm.mp hpindirs hne
      exact ⟨n, rfl⟩
    · obtain rfl : d = .isr := not_imp_comm.mp hisr hne
      exact ⟨n, rfl⟩

/-- Settles O34: no condition and no routing but that of OUT ISR looks at the ISR. -/
theorem isrIsReadByNoInstruction : Obligations.IsrIsReadByNoInstruction := by
  refine ⟨fun i s r hi => ?_, fun n s r => rfl⟩
  rcases instr_cases i with ⟨c, a, rfl⟩ | ⟨d, n, rfl⟩ | hr
  · simp only [exec_ofJmp]
    exact jump_carries (isCarried_isr r) c a s (fun _ => ⟨rfl, rfl⟩) (fun _ => rfl)
  · have hd : d ≠ .isr := by rintro rfl; exact hi n rfl
    simp only [exec_ofOut]
    exact shiftOutTo_carries (f := fun t => { t with isr := r }) rfl rfl
      (fun ext => route_isr_carries hd ext n s r) (fun _ _ => rfl)
  · exact exec_reserved_carries hr (fun t => { t with isr := r }) s

/-- Settles O35: no condition and no routing but that of OUT PINDIRS looks at PINDIRS. -/
theorem pindirsGatesNothing : Obligations.PindirsGatesNothing := by
  intro i s v hi
  rcases instr_cases i with ⟨c, a, rfl⟩ | ⟨d, n, rfl⟩ | hr
  · simp only [exec_ofJmp]
    exact jump_carries (isCarried_pindirs v) c a s (fun _ => ⟨rfl, rfl⟩) (fun _ => rfl)
  · have hd : d ≠ .pindirs := by rintro rfl; exact hi n rfl
    simp only [exec_ofOut]
    exact shiftOutTo_carries (f := fun t => { t with pindirs := v }) rfl rfl
      (fun ext => route_pindirs_carries hd ext n s v) (fun _ _ => rfl)
  · exact exec_reserved_carries hr (fun t => { t with pindirs := v }) s

/-- Settles O36: of the OSR a JMP can see the count only, and that under `!OSRE` only. -/
theorem osrIsReadOnlyByOutsAndItsCountByJmpNotOsre :
    Obligations.OsrIsReadOnlyByOutsAndItsCountByJmpNotOsre := by
  refine ⟨fun c a s v => ?_, fun c a s r hc => ?_⟩
  · simp only [exec_ofJmp]
    exact jump_carries (isCarried_osrValue v) c a s (fun _ => ⟨rfl, rfl⟩) (fun _ => rfl)
  · simp only [exec_ofJmp]
    exact jump_carries (isCarried_osr r) c a s (fun _ => ⟨rfl, rfl⟩) (fun h => absurd h hc)

/-- Settles O37: the configured pin is seen by the condition PIN, the shift direction by OUTs. -/
theorem configurationIsReadOnlyWhereNamed : Obligations.ConfigurationIsReadOnlyWhereNamed := by
  refine ⟨fun i s p hi => ?_, fun i s b hi => ?_⟩
  · rcases instr_cases i with ⟨c, a, rfl⟩ | ⟨d, n, rfl⟩ | hr
    · have hc : c ≠ .pin := by rintro rfl; exact hi a rfl
      simp only [exec_ofJmp]
      exact jump_carries (isCarried_jmpPin p) c a s (fun h => absurd h hc) (fun _ => rfl)
    · simp only [exec_ofOut]
      exact shiftOutTo_carries (f := fun t => { t with cfg := { t.cfg with jmpPin := p } }) rfl rfl
        (fun ext => route_jmpPin_carries d ext n s p) (fun _ _ => rfl)
    · exact exec_reserved_carries hr (fun t => { t with cfg := { t.cfg with jmpPin := p } }) s
  · rcases instr_cases i with ⟨c, a, rfl⟩ | ⟨d, n, rfl⟩ | hr
    · simp only [exec_ofJmp]
      exact jump_carries (isCarried_shiftOsrRight b) c a s (fun _ => ⟨rfl, rfl⟩) (fun _ => rfl)
    · exact absurd rfl (hi d n)
    · exact exec_reserved_carries hr (fun t => { t with cfg := { t.cfg with shiftOsrRight := b } }) s

/-- Settles O38: a JMP's `PC` is its target when it is taken; of the OUTs only OUT PC writes `PC`. -/
theorem controlTransfersAreTheNamedOnes : Obligations.ControlTransfersAreTheNamedOnes := by
  intro i s t hi h hpc
  rcases exec_next h with ⟨c, a, rfl, hj⟩ | ⟨d, n, rfl, ho⟩
  · obtain ⟨taken, s1, -, rfl⟩ := jump_next hj
    cases taken with
    | false => exact absurd rfl hpc
    | true => exact .inl ⟨c, a, rfl, rfl, (jmpTarget_toNat a).trans_lt a.isLt⟩
  · obtain ⟨-, -, -, -, -, -, -, hnext⟩ := shiftOutTo_frame ho
    obtain rfl : d = .pc := not_imp_comm.mp hnext hpc
    rw [wellFormed_ofOut, wellFormedCount_iff] at hi
    rw [shiftOutTo_next_iff] at ho
    subst ho
    exact .inr ⟨n, rfl, shiftOut_fst_eq_extracted s hi.2⟩

/-- Settles O47: no instruction is refused, so a refusal is that of a state that is not legal. -/
theorem illegalStatesAreRefused : Obligations.IllegalStatesAreRefused := by
  intro s r
  rw [step_refused_iff, ← Bool.not_eq_true, legal_iff_counts_le, not_and_or, Nat.not_le, Nat.not_le]

/-- Settles O31: in a legal state a count of at least 32 is 32. -/
theorem emptyAndFullPredicates : Obligations.EmptyAndFullPredicates := by
  refine ⟨isEmpty_iff_le_count, isFull_iff_count_eq, fun s => isEmpty_iff_le_count s.osr 32,
    fun s hs => ?_, fun s => isFull_iff_count_eq s.osr⟩
  have hle : s.osr.count ≤ 32 := ((legal_iff_counts_le s).mp hs).1
  exact (isEmpty_iff_le_count s.osr 32).trans ⟨hle.antisymm, Eq.ge⟩

/-- Settles O49: both counts are 0 at reset, and there is no program. -/
theorem resetMeetsTheInvariant : Obligations.ResetMeetsTheInvariant :=
  ⟨rfl, programWf_reset⟩

/-- Settles O58: a single step is a run that its first pair stops. -/
theorem statesAreEqualExactlyWhenTheirSevenFieldsAre :
    Obligations.StatesAreEqualExactlyWhenTheirSevenFieldsAre := by
  refine ⟨fun a b => ?_, fun s t h => ?_⟩
  · simp only [ArchState.ext_iff, ShiftRegister.ext_iff, and_assoc]
  · rw [singleStep, runFrom_stop h rfl]

end Sys2Proof.Certificates

/-!
SUPPORT. The statements about the instruction memory (20_memory.md): the fetch reads the word at `PC`,
no run writes a word, and a word the host places at `PC` is the one the next step runs.
-/

namespace Sys2Proof

/-! ## Words of a reserved class -/

@[simp] theorem reserved_ofJmp (c : Condition) (a : BitVec 5) :
    (Instr.ofJmp c a).reserved = false := by cases c <;> rfl

@[simp] theorem reserved_ofOut (d : OutDestination) (n : Nat) :
    (Instr.ofOut d n).reserved = false := by cases d <;> rfl

/-- A word is given back by its class and the bits below it, the class written as a constant. -/
theorem encodeReserved_of_opClass {w : OpWord} {cls : BitVec 3}
    (h : (opClass w).toFin = cls.toFin) : encodeReserved cls (opRest w) = w := by
  rw [← BitVec.toFin_inj.mp h, encodeReserved_fields]

/-- A reserved row keeps all the bits of its word (R142). -/
theorem encode_decode_of_reserved {w : OpWord} (h : (decode w).reserved = true) :
    encode (decode w) = w := by
  revert h
  unfold decode
  split
  case h_1 => simp
  case h_4 => simp
  all_goals exact fun _ => encodeReserved_of_opClass ‹_›

/-- The width of an instruction word leaves the number of a word as it is (R45). -/
@[simp] theorem tableWord_toNat (w : OpWord) : tableWord 16 w.toNat = w := by
  rw [tableWord, Nat.mod_eq_of_lt w.isLt, BitVec.ofNat_toNat, BitVec.setWidth_eq]

namespace Machine

/-! ## A step with a word at `PC` -/

/-- A legal state whose fetch gives a word executes the row of that word: a reserved row faults with
the word the decoder would have rejected (R120, R142). -/
theorem step_eq_exec_decode {s : State} {w : OpWord} (hs : s.legal = true) (hw : s.fetch = .ok w) :
    step s = exec (decode w) s := by
  rw [step, if_pos hs, hw]
  by_cases hr : (decode w).reserved = true
  · rw [exec_of_reserved hr, encode_decode_of_reserved hr]
    simp only [decodeResult, hr, if_true, raiseFault]
  · simp only [decodeResult, hr, if_false, Bool.false_eq_true]

@[simp] theorem withFetchWord_legal (s : State) (nbits w : Nat) :
    (s.withFetchWord nbits w).legal = s.legal := rfl

/-- The program after a word is placed at `PC`. -/
theorem withFetchWord_program (s : State) (nbits w : Nat) :
    (s.withFetchWord nbits w).program = placeWord s.program s.pc.toNat (tableWord nbits w) := rfl

/-! ## Reads of the instruction memory -/

/-- A read looks at nothing of the program but the word at its address. -/
theorem memRead_congr {p q : List OpWord} {a : Word} (h : p[a.toNat]? = q[a.toNat]?) :
    memRead p a = memRead q a := by
  rw [memRead, memRead, h]

theorem memRead_of_length_le {p : List OpWord} {a : Word} (h : p.length ≤ a.toNat) :
    memRead p a = .error (.programCounterOutOfRange a) :=
  (memRead_error_iff p a _).mpr ⟨h, rfl⟩

theorem memRead_of_lt_length {p : List OpWord} {a : Word} (h : a.toNat < p.length) :
    memRead p a = .ok p[a.toNat] :=
  (memRead_ok_iff p a _).mpr (List.getElem?_eq_getElem h)

/-! ## Runs -/

/-- What relates the state before a completed step to the one after it relates the ends of every run,
when it is reflexive and transitive. -/
theorem core_run_induction {R : State → State → Prop} (hrefl : ∀ s, R s s)
    (htrans : ∀ {s u t}, R s u → R u t → R s t) (hstep : ∀ {s t}, step s = .next t → R s t)
    {k : Nat} {s t : State} (h : Sys2Proof.core.run k s = .next t) : R s t := by
  induction k generalizing s with
  | zero =>
    cases h
    exact hrefl _
  | succ k ih =>
    obtain ⟨u, hu, hrest⟩ := core_run_succ k s t h
    exact htrans (hstep hu) (ih hrest)

/-- A completed step leaves the inputs of the run alone (R20, R41). -/
theorem step_program_cfg {s t : State} (h : step s = .next t) :
    t.program = s.program ∧ t.cfg = s.cfg := by
  obtain ⟨-, w, -, -, hexec⟩ := step_next h
  exact exec_program_cfg hexec

/-- So does a run of them. -/
theorem core_run_program_cfg {k : Nat} {s t : State} (h : Sys2Proof.core.run k s = .next t) :
    t.program = s.program ∧ t.cfg = s.cfg :=
  core_run_induction (R := fun s t => t.program = s.program ∧ t.cfg = s.cfg)
    (fun _ => ⟨rfl, rfl⟩)
    (fun ⟨hprogram, hcfg⟩ ⟨hprogram', hcfg'⟩ => ⟨hprogram'.trans hprogram, hcfg'.trans hcfg⟩)
    step_program_cfg h

end Machine

end Sys2Proof

namespace Sys2Proof.Certificates

open Sys2Proof.Machine

/-- Settles O33, by induction on the number of steps. -/
theorem programAndConfigurationConstantInARun :
    Obligations.ProgramAndConfigurationConstantInARun := by
  intro k s t h
  obtain ⟨hprogram, hcfg⟩ := core_run_program_cfg h
  exact ⟨hprogram, hcfg, fun a => by rw [hprogram]⟩

/-- Settles O52: the placed word is the one fetched, and placing it writes one index only. -/
theorem aPlacedWordIsTheOneRun : Obligations.APlacedWordIsTheOneRun := by
  intro s w hs
  refine ⟨?_, fun a hne hlt => ?_⟩
  · have hfetch : (s.withFetchWord 16 w.toNat).fetch = .ok w := by
      rw [withFetchWord_fetch, tableWord_toNat]
    exact step_eq_exec_decode ((withFetchWord_legal ..).trans hs) hfetch
  · have hindex : a.toNat ≠ s.pc.toNat := fun h => hne (BitVec.eq_of_toNat_eq h)
    rw [withFetchWord_program]
    exact memRead_congr (placeWord_getElem?_ne _ _ _ _ hlt hindex)

/-- Settles O41: the two cases of a read, and the fetch as the read at `PC`. -/
theorem fetchReadsTheWordAtPc : Obligations.FetchReadsTheWordAtPc := by
  refine ⟨fun p a => memRead_of_length_le, fun p a h => memRead_of_lt_length h, fun s => rfl,
    fun s hs => ?_⟩
  have hempty : s.program.length ≤ s.pc.toNat := by simp [hs]
  exact memRead_of_length_le hempty

end Sys2Proof.Certificates

/-!
SUPPORT. The statements about the encoding (30_encoding.md): both round trips of the decoder and the
encoder, the opcode table, the bit count of an OUT, the delay bits and the reserved classes.
-/

namespace Sys2Proof

/-! ## A word as the number and as the masks of its fields -/

theorem append_toNat {m n : Nat} (x : BitVec m) (y : BitVec n) :
    (x ++ y).toNat = x.toNat * 2 ^ n + y.toNat := by
  rw [BitVec.toNat_append, ← Nat.shiftLeft_add_eq_or_of_lt y.isLt, Nat.shiftLeft_eq]

theorem ofFields_toNat (c : BitVec 3) (d : BitVec 5) (s : BitVec 3) (l : BitVec 5) :
    (ofFields c d s l).toNat = c.toNat * 2 ^ 13 + d.toNat * 2 ^ 8 + s.toNat * 2 ^ 5 + l.toNat := by
  simp only [ofFields, append_toNat]
  omega

theorem opLo_toNat (w : OpWord) : (opLo w).toNat = w.toNat % 32 := by
  rw [opLo, BitVec.extractLsb'_toNat, Nat.shiftRight_zero]

/-- A mask acts on each field of a word by itself (R46). -/
theorem and_ofFields (w : OpWord) (c : BitVec 3) (d : BitVec 5) (s : BitVec 3) (l : BitVec 5) :
    w &&& ofFields c d s l =
      ofFields (opClass w &&& c) (opDelay w &&& d) (opSel w &&& s) (opLo w &&& l) := by
  have happend (c' s' : BitVec 3) (d' l' : BitVec 5) :
      (c' ++ d' ++ s' ++ l') &&& (c ++ d ++ s ++ l) =
        (c' &&& c) ++ (d' &&& d) ++ (s' &&& s) ++ (l' &&& l) := by
    simp only [BitVec.and_append]
  conv_lhs => rw [← ofFields_fields w]
  exact happend ..

/-- The mask that clears the delay bits (R48). -/
theorem and_delayMask (w : OpWord) :
    w &&& 0xE0FF#16 = ofFields (opClass w) 0#5 (opSel w) (opLo w) := by
  have h := and_ofFields w (BitVec.allOnes 3) 0#5 (BitVec.allOnes 3) (BitVec.allOnes 5)
  simp only [BitVec.and_allOnes, BitVec.and_zero] at h
  exact h

/-- The mask of a JMP's and an OUT's row keeps the class and the selector (R58). -/
theorem and_rowMask (w : OpWord) :
    w &&& 0xE0E0#16 = ofFields (opClass w) 0#5 (opSel w) 0#5 := by
  have h := and_ofFields w (BitVec.allOnes 3) 0#5 (BitVec.allOnes 3) 0#5
  simp only [BitVec.and_allOnes, BitVec.and_zero] at h
  exact h

/-- The mask of a reserved row keeps the class (R56). -/
theorem and_classMask (w : OpWord) :
    w &&& 0xE000#16 = ofFields (opClass w) 0#5 0#3 0#5 := by
  have h := and_ofFields w (BitVec.allOnes 3) 0#5 0#3 0#5
  simp only [BitVec.and_allOnes, BitVec.and_zero] at h
  exact h

/-! ## The decoder by class -/

theorem decode_of_class_jmp {w : OpWord} (h : opClass w = 0b000#3) :
    decode w = Instr.ofJmp (conditionOf (opSel w)) (opLo w) := by
  rw [decode, h]
  rfl

theorem decode_of_class_out {w : OpWord} (h : opClass w = 0b011#3) :
    decode w = Instr.ofOut (destinationOf (opSel w)) (effectiveCount (opLo w)) := by
  rw [decode, h]
  rfl

/-- The classes of JMP and OUT are the two that are not reserved (R47). -/
theorem decode_reserved_iff (w : OpWord) :
    (decode w).reserved = true ↔ opClass w ≠ 0b000#3 ∧ opClass w ≠ 0b011#3 := by
  constructor
  · intro h
    refine ⟨fun hc => ?_, fun hc => ?_⟩
    · simp [decode_of_class_jmp hc] at h
    · simp [decode_of_class_out hc] at h
  · rintro ⟨hjmp, hout⟩
    unfold decode
    split
    case h_1 hc => exact absurd (BitVec.toFin_inj.mp hc) hjmp
    case h_4 hc => exact absurd (BitVec.toFin_inj.mp hc) hout
    all_goals rfl

/-- A word is a JMP, an OUT or of a reserved class, by its class bits (R47). -/
theorem decode_cases (w : OpWord) :
    opClass w = 0b000#3 ∨ opClass w = 0b011#3 ∨ (decode w).reserved = true := by
  rw [decode_reserved_iff]
  tauto

/-! ## The two round trips -/

@[simp] theorem encode_ofJmp (c : Condition) (a : BitVec 5) :
    encode (Instr.ofJmp c a) = encodeJmp c a := by cases c <;> rfl

@[simp] theorem encode_ofOut (d : OutDestination) (n : Nat) :
    encode (Instr.ofOut d n) = encodeOut d n := by cases d <;> rfl

theorem decode_encodeJmp (c : Condition) (a : BitVec 5) :
    decode (encodeJmp c a) = Instr.ofJmp c a := by
  obtain ⟨hclass, -, hsel, hlo⟩ := Laws.EncodedFields.isJmpWord_encodeJmp c a
  rw [decode_of_class_jmp hclass, hsel, hlo, conditionOf_conditionCode]

theorem decode_encodeOut (d : OutDestination) {n : Nat} (hn : wellFormedCount n = true) :
    decode (encodeOut d n) = Instr.ofOut d n := by
  obtain ⟨hclass, -, hsel, hlo⟩ := Laws.EncodedFields.isOutWord_encodeOut d n
  rw [decode_of_class_out hclass, hsel, hlo, destinationOf_destinationCode,
    effectiveCount_countField n hn]

theorem decode_encode_of_reserved {i : Instr} (h : i.reserved = true) : decode (encode i) = i := by
  cases i <;> simp only [Instr.reserved, Bool.false_eq_true] at h
  all_goals
    rw [decode, encode, opClass_encodeReserved, opRest_encodeReserved]
    rfl

theorem decode_encode {i : Instr} (h : i.wellFormed = true) : decode (encode i) = i := by
  rcases Machine.instr_cases i with ⟨c, a, rfl⟩ | ⟨d, n, rfl⟩ | hr
  · rw [encode_ofJmp, decode_encodeJmp]
  · rw [Machine.wellFormed_ofOut] at h
    rw [encode_ofOut, decode_encodeOut d h]
  · exact decode_encode_of_reserved hr

/-- Of a word that is not reserved the decoder drops the delay bits only (R48). -/
theorem encode_decode_of_not_reserved {w : OpWord} (h : ¬ (decode w).reserved = true) :
    encode (decode w) = w &&& 0xE0FF#16 := by
  rw [and_delayMask]
  rcases decode_cases w with hc | hc | hr
  · rw [decode_of_class_jmp hc, encode_ofJmp, encodeJmp, conditionCode_conditionOf, hc]
  · rw [decode_of_class_out hc, encode_ofOut, encodeOut, destinationCode_destinationOf,
      countField_effectiveCount, hc]
  · exact absurd hr h

/-- The decoder does not look at the delay bits of a JMP or an OUT (R48): a word and the word its
instruction encodes to decode alike. -/
theorem decode_and_delayMask {w : OpWord} (h : ¬ (decode w).reserved = true) :
    decode (w &&& 0xE0FF#16) = decode w := by
  rw [← encode_decode_of_not_reserved h, decode_encode (Machine.decode_wellFormed w)]

theorem decodeResult_encode_of_reserved {i : Instr} (h : i.reserved = true) :
    decodeResult (encode i) = .error (.unknownOpcode (encode i)) := by
  rw [decodeResult, decode_encode_of_reserved h, if_pos h]

namespace Machine

open Sys2Proof.Certificates

/-! ## The fields as the numbers of the statements -/

theorem opClass_toNat (w : OpWord) : (opClass w).toNat = classOf w := by
  rw [opClass, BitVec.extractLsb'_toNat, Nat.shiftRight_eq_div_pow]
  exact Nat.mod_eq_of_lt (Nat.div_lt_of_lt_mul w.isLt)

theorem opClass_eq_iff (w : OpWord) (c : BitVec 3) : opClass w = c ↔ classOf w = c.toNat := by
  rw [← BitVec.toNat_inj, opClass_toNat]

theorem reservedClass_iff (w : OpWord) : ReservedClass w ↔ (decode w).reserved = true := by
  have hlt : classOf w < 8 := opClass_toNat w ▸ (opClass w).isLt
  rw [decode_reserved_iff, ne_eq, ne_eq, opClass_eq_iff, opClass_eq_iff]
  simp only [BitVec.toNat_ofNat]
  omega

theorem effectiveCount_opLo (w : OpWord) : effectiveCount (opLo w) = countOf w := by
  have hzero : opLo w = 0#5 ↔ w.toNat % 32 = 0 := by
    rw [← BitVec.toNat_inj, opLo_toNat]
    rfl
  simp only [effectiveCount, countOf, hzero, opLo_toNat]

theorem conditionCode_toNat (c : Condition) : (conditionCode c).toNat = conditionNumber c := by
  cases c <;> rfl

theorem destinationCode_toNat (d : OutDestination) :
    (destinationCode d).toNat = destinationNumber d := by cases d <;> rfl

theorem encodeJmp_toNat (c : Condition) (a : BitVec 5) :
    (encodeJmp c a).toNat = conditionNumber c * 2 ^ 5 + a.toNat := by
  rw [encodeJmp, ofFields_toNat, conditionCode_toNat]
  simp

theorem encodeOut_toNat (d : OutDestination) (n : Nat) :
    (encodeOut d n).toNat = 3 * 2 ^ 13 + destinationNumber d * 2 ^ 5 + n % 32 := by
  rw [encodeOut, ofFields_toNat, destinationCode_toNat, countField]
  simp

/-! ## The rows of the opcode table -/

theorem opcodeRow_ofJmp (c : Condition) (a : BitVec 5) :
    opcodeRow (Instr.ofJmp c a) = (ofFields 0b000#3 0#5 (conditionCode c) 0#5, 0xE0E0#16) := by
  cases c <;> rfl

theorem opcodeRow_ofOut (d : OutDestination) (n : Nat) :
    opcodeRow (Instr.ofOut d n) = (ofFields 0b011#3 0#5 (destinationCode d) 0#5, 0xE0E0#16) := by
  cases d <;> rfl

theorem opcodeRow_of_reserved {i : Instr} (h : i.reserved = true) :
    opcodeRow i = (ofFields (opClass (encode i)) 0#5 0#3 0#5, 0xE000#16) := by
  cases i <;> simp only [Instr.reserved, Bool.false_eq_true] at h
  all_goals
    rw [encode, opClass_encodeReserved]
    rfl

/-- A word matches the row it decodes to, so the rows cover all words. -/
theorem decode_matches_row (w : OpWord) :
    w &&& (opcodeRow (decode w)).2 = (opcodeRow (decode w)).1 := by
  rcases decode_cases w with hc | hc | hr
  · rw [decode_of_class_jmp hc, opcodeRow_ofJmp, conditionCode_conditionOf, ← hc]
    exact and_rowMask w
  · rw [decode_of_class_out hc, opcodeRow_ofOut, destinationCode_destinationOf, ← hc]
    exact and_rowMask w
  · rw [opcodeRow_of_reserved hr, encode_decode_of_reserved hr]
    exact and_classMask w

theorem ofFields_class_sel_inj {c c' s s' : BitVec 3}
    (h : ofFields c 0#5 s 0#5 = ofFields c' 0#5 s' 0#5) : c = c' ∧ s = s' := by
  have hclass := congrArg opClass h
  have hsel := congrArg opSel h
  rw [opClass_ofFields, opClass_ofFields] at hclass
  rw [opSel_ofFields, opSel_ofFields] at hsel
  exact ⟨hclass, hsel⟩

/-- A word matches no other row than the one it decodes to, so the rows are disjoint. -/
theorem opcodeRow_decode_of_matches {w : OpWord} {i : Instr}
    (h : w &&& (opcodeRow i).2 = (opcodeRow i).1) : opcodeRow (decode w) = opcodeRow i := by
  rcases instr_cases i with ⟨c, a, rfl⟩ | ⟨d, n, rfl⟩ | hr
  · rw [opcodeRow_ofJmp, and_rowMask] at h
    obtain ⟨hclass, hsel⟩ := ofFields_class_sel_inj h
    rw [decode_of_class_jmp hclass, opcodeRow_ofJmp, opcodeRow_ofJmp, conditionCode_conditionOf, hsel]
  · rw [opcodeRow_ofOut, and_rowMask] at h
    obtain ⟨hclass, hsel⟩ := ofFields_class_sel_inj h
    rw [decode_of_class_out hclass, opcodeRow_ofOut, opcodeRow_ofOut, destinationCode_destinationOf,
      hsel]
  · rw [opcodeRow_of_reserved hr, and_classMask] at h
    obtain ⟨hclass, -⟩ := ofFields_class_sel_inj h
    have hw : (decode w).reserved = true := by
      rw [decode_reserved_iff, hclass, ← decode_reserved_iff, decode_encode_of_reserved hr, hr]
    rw [opcodeRow_of_reserved hw, opcodeRow_of_reserved hr, encode_decode_of_reserved hw, hclass]

/-! ## A step of a placed word, but for the program -/

theorem isCarried_program (p : List OpWord) : IsCarried fun t => { t with program := p } := by
  constructor <;> intros <;> rfl

theorem route_program_carries (d : OutDestination) (ext : Word) (n : Nat) (s : State)
    (p : List OpWord) :
    route d ext n { s with program := p } = { route d ext n s with program := p } := by
  cases d <;> rfl

/-- No instruction reads the instruction memory (R36). -/
theorem exec_program_carries (i : Instr) (s : State) (p : List OpWord) :
    exec i { s with program := p } = mapState (fun t => { t with program := p }) (exec i s) := by
  rcases instr_cases i with ⟨c, a, rfl⟩ | ⟨d, n, rfl⟩ | hr
  · simp only [exec_ofJmp]
    exact jump_carries (isCarried_program p) c a s (fun _ => ⟨rfl, rfl⟩) (fun _ => rfl)
  · simp only [exec_ofOut]
    exact shiftOutTo_carries (f := fun t => { t with program := p }) rfl rfl
      (fun ext => route_program_carries d ext n s p) (fun _ _ => rfl)
  · exact exec_reserved_carries hr (fun t => { t with program := p }) s

theorem step_withFetchWord {s : State} (hs : s.legal = true) (w : OpWord) :
    step (s.withFetchWord 16 w.toNat) = exec (decode w) (s.withFetchWord 16 w.toNat) := by
  have hfetch : (s.withFetchWord 16 w.toNat).fetch = .ok w := by
    rw [withFetchWord_fetch, tableWord_toNat]
  exact step_eq_exec_decode ((withFetchWord_legal ..).trans hs) hfetch

/-- A step of a placed word depends on what the word decodes to only, but for the program. -/
theorem step_withFetchWord_congr {w v : OpWord} (h : decode w = decode v) (s : State)
    (p : List OpWord) :
    mapState (fun t => { t with program := p }) (step (s.withFetchWord 16 w.toNat)) =
      mapState (fun t => { t with program := p }) (step (s.withFetchWord 16 v.toNat)) := by
  cases hs : s.legal with
  | true =>
    rw [step_withFetchWord hs, step_withFetchWord hs, ← exec_program_carries,
      ← exec_program_carries, h]
    rfl
  | false =>
    have hrefused (u : OpWord) : step (s.withFetchWord 16 u.toNat) = .refused .illegalState :=
      (step_refused_iff _ _).mpr ⟨rfl, (withFetchWord_legal ..).trans hs⟩
    rw [hrefused, hrefused]

end Machine

end Sys2Proof

namespace Sys2Proof.Certificates

open Sys2Proof.Machine

/-- Settles O2: the fields of the encoded word, as numbers and as what the decoder reads back. -/
theorem decodeEncodeRoundTrip : Obligations.DecodeEncodeRoundTrip := by
  refine ⟨fun c a => ?_, fun d n _ _ => ?_, fun i => decode_encode⟩
  · rw [encode_ofJmp, encodeJmp_toNat]
  · rw [encode_ofOut, encodeOut_toNat]

/-- Settles O3: a reserved row keeps the whole word, a JMP or OUT all of it but the delay bits. -/
theorem encodeDecodeGivesTheWordBack : Obligations.EncodeDecodeGivesTheWordBack := by
  intro w
  rw [reservedClass_iff]
  exact ⟨encode_decode_of_reserved, encode_decode_of_not_reserved⟩

/-- Settles O4: a word matches the row it decodes to and no other. -/
theorem decodeFollowsTheOpcodeTable : Obligations.DecodeFollowsTheOpcodeTable := by
  refine fun w i => ⟨opcodeRow_decode_of_matches, fun h => ?_⟩
  rw [← h]
  exact decode_matches_row w

/-- Settles O5: the decoder's count is the effective count of the field. -/
theorem decodedInstructionsAreWellFormed : Obligations.DecodedInstructionsAreWellFormed := by
  refine ⟨decode_wellFormed, fun w => ?_, fun w hc => ⟨destinationOf (opSel w), ?_⟩⟩
  · rw [← effectiveCount_opLo, ← wellFormedCount_iff]
    exact effectiveCount_wellFormed _
  · rw [decode_of_class_out ((opClass_eq_iff w _).mpr hc), effectiveCount_opLo]

/-- Settles O6: the class is outside the delay bits, and what decodes alike steps alike. -/
theorem delayBitsChangeNothing : Obligations.DelayBitsChangeNothing := by
  intro w v h
  have hclass : opClass w = opClass v := by
    have := congrArg opClass h
    rwa [and_delayMask, and_delayMask, opClass_ofFields, opClass_ofFields] at this
  have hreserved : (decode w).reserved = true ↔ (decode v).reserved = true := by
    rw [decode_reserved_iff, decode_reserved_iff, hclass]
  simp only [reservedClass_iff]
  refine ⟨hreserved, fun hw => ?_⟩
  have hdecode : decode w = decode v := by
    rw [← decode_and_delayMask hw, h, decode_and_delayMask (mt hreserved.mpr hw)]
  exact ⟨hdecode, fun s => step_withFetchWord_congr hdecode s []⟩

/-- Settles O8: each word of a reserved class is the word its row encodes to. -/
theorem reservedClassesRaiseUnknownOpcode : Obligations.ReservedClassesRaiseUnknownOpcode := by
  refine ⟨fun r s => ?_, fun r => ?_⟩
  · exact ⟨exec_of_reserved rfl s, exec_of_reserved rfl s, exec_of_reserved rfl s,
      exec_of_reserved rfl s, exec_of_reserved rfl s, exec_of_reserved rfl s⟩
  · exact ⟨decode_encode_of_reserved (i := .reserved001 r) rfl,
      decode_encode_of_reserved (i := .reserved010 r) rfl,
      decode_encode_of_reserved (i := .reserved100 r) rfl,
      decode_encode_of_reserved (i := .reserved101 r) rfl,
      decode_encode_of_reserved (i := .reserved110 r) rfl,
      decode_encode_of_reserved (i := .reserved111 r) rfl,
      decodeResult_encode_of_reserved (i := .reserved001 r) rfl,
      decodeResult_encode_of_reserved (i := .reserved010 r) rfl,
      decodeResult_encode_of_reserved (i := .reserved100 r) rfl,
      decodeResult_encode_of_reserved (i := .reserved101 r) rfl,
      decodeResult_encode_of_reserved (i := .reserved110 r) rfl,
      decodeResult_encode_of_reserved (i := .reserved111 r) rfl⟩

end Sys2Proof.Certificates

/-!
SUPPORT. The statements about the shift datapath (40_shift_datapath.md): the OSR's count over a step, a
run and a list of OUTs, the bits that leave and stay in a shift out, and those a shift in merges.
-/

namespace Sys2Proof.Machine

open Sys2Proof.Certificates

/-! ## The count of a shift register (R69) -/

/-- Saturating twice is saturating once, by the sum. -/
theorem saturate_saturate (count a b : Nat) :
    saturate (saturate count a) b = saturate count (a + b) := by
  unfold saturate
  omega

theorem saturate_zero {count : Nat} (h : count ≤ 32) : saturate count 0 = count :=
  Nat.min_eq_right h

/-- An OUT completes, and adds the bits it shifts out to the OSR's count. -/
theorem exec_ofOut_next (d : OutDestination) (n : Nat) (s : State) :
    ∃ t, exec (Instr.ofOut d n) s = .next t ∧ t.osr.count = saturate s.osr.count n := by
  refine ⟨_, (exec_ofOut d n s).trans (shiftOutTo_eq d n s), ?_⟩
  rw [State.setOsr_osr, shiftOut_count]

/-- From a legal count no instruction takes the OSR's count down: a JMP keeps it, an OUT adds to it. -/
theorem exec_osr_count_le {i : Instr} {s t : State} (hs : s.osr.count ≤ 32)
    (h : exec i s = .next t) : s.osr.count ≤ t.osr.count := by
  rcases exec_next h with ⟨c, a, -, hj⟩ | ⟨d, n, -, ho⟩
  · obtain ⟨-, -, hosr, -⟩ := jump_frame hj
    rw [hosr]
  · rw [shiftOutTo_next_iff] at ho
    rw [ho, State.setOsr_osr, shiftOut_count]
    exact le_saturate s.osr.count n hs

theorem step_osr_count_le {s t : State} (h : step s = .next t) : s.osr.count ≤ t.osr.count := by
  obtain ⟨hlegal, w, -, -, hexec⟩ := step_next h
  exact exec_osr_count_le ((legal_iff_counts_le s).mp hlegal).1 hexec

theorem execAll_cons_of_next {i : Instr} {s u : State} (h : exec i s = .next u)
    (rest : List Instr) : execAll (i :: rest) s = execAll rest u := by
  rw [execAll, h]

/-- OUTs executed one after another complete, and together add the sum of their bit counts. -/
theorem execAll_ofOut_next (outs : List (OutDestination × Nat)) {s : State}
    (hs : s.osr.count ≤ 32) :
    ∃ t, execAll (outs.map fun o => Instr.ofOut o.1 o.2) s = .next t ∧
      t.osr.count = saturate s.osr.count (outs.map Prod.snd).sum := by
  induction outs generalizing s with
  | nil => exact ⟨s, rfl, (saturate_zero hs).symm⟩
  | cons o outs ih =>
    obtain ⟨u, hu, hcount⟩ := exec_ofOut_next o.1 o.2 s
    obtain ⟨t, ht, hsum⟩ := ih (s := u) (hcount ▸ saturate_le s.osr.count o.2)
    refine ⟨t, ?_, ?_⟩
    · rw [List.map_cons, execAll_cons_of_next hu, ht]
    · rw [hsum, hcount, saturate_saturate, List.map_cons, List.sum_cons]

/-! ## The bits of a shift out (R66 to R68) -/

/-- What a word loses on the left when it moves up by `n` bits is its top `n` bits. -/
theorem mul_two_pow_div (v : Nat) {n : Nat} (h : n ≤ 32) :
    v * 2 ^ n / 2 ^ 32 = v / 2 ^ (32 - n) := by
  rw [← Nat.pow_sub_mul_pow 2 h, Nat.mul_div_mul_right _ _ (Nat.two_pow_pos n)]

/-- What it keeps is the rest of it, moved up. -/
theorem mul_two_pow_mod (v : Nat) {n : Nat} (h : n ≤ 32) :
    v * 2 ^ n % 2 ^ 32 = v % 2 ^ (32 - n) * 2 ^ n := by
  rw [← Nat.pow_sub_mul_pow 2 h, Nat.mul_mod_mul_right]

/-- Right: the old value is what stays, above what leaves. -/
theorem shiftOut_right_conserves (sr : ShiftRegister) {n : Nat} (h : n ≤ 32) :
    sr.value.toNat =
      (shiftOut sr n true).2.value.toNat * 2 ^ n + (shiftOut sr n true).1.toNat := by
  obtain ⟨hext, hvalue, -⟩ := shiftOut_right sr n h
  rw [hext, hvalue, Nat.div_add_mod']

/-- Left: the old value moved up is what leaves, above the word that stays. -/
theorem shiftOut_left_conserves (sr : ShiftRegister) {n : Nat} (h : n ≤ 32) :
    sr.value.toNat * 2 ^ n =
      (shiftOut sr n false).1.toNat * 2 ^ 32 + (shiftOut sr n false).2.value.toNat := by
  obtain ⟨hext, hvalue, -⟩ := shiftOut_left sr n
  rw [hext, hvalue, ← mul_two_pow_div _ h, Nat.div_add_mod']

/-! ## Two shifts out -/

theorem shr32_shr32 (v : Word) (a b : Nat) : shr32 (shr32 v a) b = shr32 v (a + b) :=
  (BitVec.shiftRight_add v a b).symm

theorem shl32_shl32 (v : Word) (a b : Nat) : shl32 (shl32 v a) b = shl32 v (a + b) :=
  (BitVec.shiftLeft_add v a b).symm

/-- Two shifts leave the register that one shift by the sum leaves. -/
theorem shiftOut_shiftOut_snd (sr : ShiftRegister) (a b : Nat) (right : Bool) :
    (shiftOut (shiftOut sr a right).2 b right).2 = (shiftOut sr (a + b) right).2 := by
  cases right with
  | true => exact ShiftRegister.ext (shr32_shr32 ..) (saturate_saturate ..)
  | false => exact ShiftRegister.ext (shl32_shl32 ..) (saturate_saturate ..)

/-- Right: the bits that leave first are the lower ones. Both sides are what the old value has beside the
register left. -/
theorem shiftOut_right_add_fst (sr : ShiftRegister) {a b : Nat} (h : a + b ≤ 32) :
    (shiftOut sr (a + b) true).1.toNat =
      (shiftOut sr a true).1.toNat +
        (shiftOut (shiftOut sr a true).2 b true).1.toNat * 2 ^ a := by
  have hboth := shiftOut_right_conserves sr h
  have hfirst := shiftOut_right_conserves sr (n := a) (by omega)
  have hsecond := shiftOut_right_conserves (shiftOut sr a true).2 (n := b) (by omega)
  rw [shiftOut_shiftOut_snd] at hsecond
  apply Nat.add_left_cancel (n := (shiftOut sr (a + b) true).2.value.toNat * 2 ^ (a + b))
  rw [← hboth, hfirst, hsecond]
  ring

/-- Left: the bits that leave first are the higher ones, by the same comparison. -/
theorem shiftOut_left_add_fst (sr : ShiftRegister) {a b : Nat} (h : a + b ≤ 32) :
    (shiftOut sr (a + b) false).1.toNat =
      (shiftOut sr a false).1.toNat * 2 ^ b +
        (shiftOut (shiftOut sr a false).2 b false).1.toNat := by
  have hboth := shiftOut_left_conserves sr h
  have hfirst := shiftOut_left_conserves sr (n := a) (by omega)
  have hsecond := shiftOut_left_conserves (shiftOut sr a false).2 (n := b) (by omega)
  rw [shiftOut_shiftOut_snd] at hsecond
  apply Nat.mul_right_cancel (Nat.two_pow_pos 32)
  apply Nat.add_right_cancel (m := (shiftOut sr (a + b) false).2.value.toNat)
  rw [← hboth, Nat.pow_add, ← Nat.mul_assoc, hfirst, Nat.add_mul, hsecond]
  ring

/-! ## The bits of a shift in (R71) -/

/-- A word of `k` bits merged below a word moved up by `k` bits is added to it. -/
theorem shl32_or_toNat (v low : Word) {k : Nat} (hk : k ≤ 32) (hlow : low.toNat < 2 ^ k) :
    (shl32 v k ||| low).toNat = v.toNat * 2 ^ k % 2 ^ 32 + low.toNat := by
  rw [BitVec.toNat_or, shl32_toNat, mul_two_pow_mod _ hk, Nat.mul_comm,
    Nat.two_pow_add_eq_or_of_lt hlow]

theorem shr32_toNat_lt (v : Word) {n : Nat} (h : n ≤ 32) : (shr32 v n).toNat < 2 ^ (32 - n) := by
  rw [shr32_toNat, Nat.div_lt_iff_lt_mul (Nat.two_pow_pos n), Nat.pow_sub_mul_pow 2 h]
  exact v.isLt

theorem shiftIn_left_value (sr : ShiftRegister) (src : Word) {n : Nat} (h : n ≤ 32) :
    (shiftIn sr src n false).value.toNat =
      sr.value.toNat * 2 ^ n % 2 ^ 32 + src.toNat % 2 ^ n := by
  have hsrc := and_mask_toNat src n h
  have hlow : (src &&& mask n).toNat < 2 ^ n := hsrc ▸ Nat.mod_lt _ (Nat.two_pow_pos n)
  rw [← hsrc]
  exact shl32_or_toNat sr.value (src &&& mask n) h hlow

/-- The `n` bits of the source reach the top of the word and none of them is lost. -/
theorem shiftIn_right_value (sr : ShiftRegister) (src : Word) {n : Nat} (h : n ≤ 32) :
    (shiftIn sr src n true).value.toNat =
      sr.value.toNat / 2 ^ n + src.toNat % 2 ^ n * 2 ^ (32 - n) := by
  have hmerge := shl32_or_toNat (src &&& mask n) (shr32 sr.value n) (Nat.sub_le 32 n)
    (shr32_toNat_lt sr.value h)
  have hfits : src.toNat % 2 ^ n * 2 ^ (32 - n) < 2 ^ 32 := by
    rw [← Nat.pow_sub_mul_pow 2 h, Nat.mul_comm (2 ^ (32 - n))]
    exact Nat.mul_lt_mul_of_pos_right (Nat.mod_lt _ (Nat.two_pow_pos n)) (Nat.two_pow_pos _)
  rw [and_mask_toNat src n h, Nat.mod_eq_of_lt hfits, shr32_toNat, BitVec.or_comm,
    Nat.add_comm] at hmerge
  exact hmerge

end Sys2Proof.Machine

namespace Sys2Proof.Certificates

open Sys2Proof.Machine

/-- Settles O29: a completed step starts in a legal state, where no instruction takes the count down. -/
theorem osrCountNeverDecreasesInARun : Obligations.OsrCountNeverDecreasesInARun := fun _ _ _ h =>
  core_run_induction (R := fun s t => s.osr.count ≤ t.osr.count) (fun _ => Nat.le_refl _)
    Nat.le_trans step_osr_count_le h

/-- Settles O26: the width of what leaves, and the old value made up of both parts. -/
theorem shiftOutLosesNoBit : Obligations.ShiftOutLosesNoBit := fun sr n _ hn =>
  ⟨⟨shiftOut_ext_lt sr n true hn, shiftOut_right_conserves sr hn⟩,
    shiftOut_ext_lt sr n false hn, shiftOut_left_conserves sr hn⟩

/-- Settles O27: the registers left are the same, so conservation fixes the bits that left. -/
theorem twoShiftsAreOneShift : Obligations.TwoShiftsAreOneShift := fun sr a b _ _ hab =>
  ⟨shiftOut_shiftOut_snd sr a b, shiftOut_right_add_fst sr hab, shiftOut_left_add_fst sr hab⟩

/-- Settles O28, by induction on the list of OUTs. -/
theorem repeatedOutsSaturateTheCount : Obligations.RepeatedOutsSaturateTheCount :=
  fun outs _ hs _ => execAll_ofOut_next outs hs

/-- Settles O30: the merged parts do not overlap, and the count saturates. -/
theorem shiftInMergesTheBits : Obligations.ShiftInMergesTheBits := fun sr src n _ hn =>
  ⟨⟨shiftIn_left_value sr src hn, shiftIn_count sr src n false⟩,
    shiftIn_right_value sr src hn, shiftIn_count sr src n true⟩

end Sys2Proof.Certificates

/-!
SUPPORT. The statements about JMP (41_jmp.md): which words are which JMP, the six conditions that test the
state, and the two that count a register down and branch while it is not zero.
-/

namespace Sys2Proof.Machine

open Sys2Proof.Certificates

/-! ## The words of a JMP (R58) -/

/-- A word that matches the row of a JMP decodes to it, its address the low five bits (R49, R54). The
words of a row differ in the address and in the delay bits, which the decoder drops (R48). -/
theorem decode_of_jmpRow (c : Condition) {w : OpWord}
    (h : w &&& 0xE0E0#16 = ofFields 0b000#3 0#5 (conditionCode c) 0#5) :
    decode w = Instr.ofJmp c (w.setWidth 5) := by
  rw [and_rowMask] at h
  obtain ⟨hclass, hsel⟩ := ofFields_class_sel_inj h
  have hlo : opLo w = w.setWidth 5 := (BitVec.setWidth_eq_extractLsb' (by decide)).symm
  rw [decode_of_class_jmp hclass, hsel, conditionOf_conditionCode, hlo]

/-! ## A JMP from what its condition evaluates to (R81) -/

/-- A JMP whose condition can be evaluated completes, at the target or at the next index. -/
theorem jump_of_evaluate {c : Condition} {s s1 : State} {taken : Bool}
    (h : evaluate c s = .ok (taken, s1)) (a : BitVec 5) :
    jump c a s = .next (s1.setPc (if taken then jmpTarget a else nextPc s1.pc)) := by
  rw [jump, h]
  cases taken <;> rfl

/-- A JMP whose condition tests the state and writes nothing writes `PC` only. -/
theorem exec_ofJmp_of_test {c : Condition} {s : State} {p : Prop} [Decidable p]
    (h : evaluate c s = .ok (decide p, s)) (a : BitVec 5) :
    exec (Instr.ofJmp c a) s =
      .next { s with pc := if p then a.setWidth 32 else s.pc + 1#32 } := by
  rw [exec_ofJmp, jump_of_evaluate h]
  simp only [decide_eq_true_eq]
  rfl

/-- `PIN` tests the configured bit of `PINS` (R88). -/
theorem evaluate_pin_of_some {s : State} {p : BitVec 5} (h : s.cfg.jmpPin = some p) :
    evaluate .pin s = .ok (decide (s.pins.toNat / 2 ^ p.toNat % 2 = 1), s) := by
  simp only [evaluate, h, pinLevel, BitVec.getLsbD, Nat.testBit_eq_decide_div_mod_eq]

/-- `!OSRE` tests that fewer than 32 bits have left the OSR (R89). -/
theorem evaluate_osrNotEmpty (s : State) :
    evaluate .osrNotEmpty s = .ok (decide (s.osr.count < 32), s) := by
  have hcount : (!s.osrEmpty) = decide (s.osr.count < 32) := by
    rw [Bool.eq_iff_iff, Bool.not_eq_true', ← Bool.not_eq_true, decide_eq_true_eq, ← Nat.not_le]
    exact not_congr (isEmpty_iff_le_count s.osr 32)
  rw [← hcount]
  rfl

/-! ## Counting a register down (R84, R86) -/

/-- The condition `c` counts down the register that `read` and `write` name: it branches while the
register is not zero, and then decrements it. The register is none that a write of `PC` touches. -/
structure IsCountdown (c : Condition) (read : State → Word) (write : State → Word → State) :
    Prop where
  evaluate_eq : ∀ s, evaluate c s = .ok (decNonzero (read s) (write s) s)
  read_write : ∀ s v, read (write s v) = v
  read_setPc : ∀ s p, read (s.setPc p) = read s
  write_read : ∀ s, write s (read s) = s
  write_write : ∀ s u v, write (write s u) v = write s v
  write_setPc : ∀ s p v, write (s.setPc p) v = (write s v).setPc p

theorem isCountdown_x : IsCountdown .xDecNonzero (fun s => s.x) State.setX := by
  constructor <;> intros <;> rfl

theorem isCountdown_y : IsCountdown .yDecNonzero (fun s => s.y) State.setY := by
  constructor <;> intros <;> rfl

section Countdown

variable {c : Condition} {read : State → Word} {write : State → Word → State}

theorem IsCountdown.exec_of_ne_zero (hc : IsCountdown c read write) (a : BitVec 5) {s : State}
    (h : read s ≠ 0#32) :
    exec (Instr.ofJmp c a) s = .next ((write s (read s - 1#32)).setPc (jmpTarget a)) := by
  have heval : evaluate c s = .ok (true, write s (read s - 1#32)) := by
    rw [hc.evaluate_eq, decNonzero, if_neg h]
  rw [exec_ofJmp, jump_of_evaluate heval, if_pos rfl]

theorem IsCountdown.exec_of_eq_zero (hc : IsCountdown c read write) (a : BitVec 5) {s : State}
    (h : read s = 0#32) : exec (Instr.ofJmp c a) s = .next s.advancePc := by
  have heval : evaluate c s = .ok (false, s) := by
    rw [hc.evaluate_eq, decNonzero, if_pos h]
  rw [exec_ofJmp, jump_of_evaluate heval, if_neg Bool.false_ne_true, State.advancePc]

/-- As long as the register has something left, each execution takes the branch and takes one off. -/
theorem IsCountdown.execAll_replicate (hc : IsCountdown c read write) (a : BitVec 5) {s : State}
    {k : Nat} (hk : k ≤ (read s).toNat) :
    execAll (List.replicate k (Instr.ofJmp c a)) s =
      .next ((write s (BitVec.ofNat 32 ((read s).toNat - k))).setPc
        (if k = 0 then s.pc else jmpTarget a)) := by
  induction k generalizing s with
  | zero =>
    rw [Nat.sub_zero, BitVec.ofNat_toNat, BitVec.setWidth_eq, hc.write_read]
    rfl
  | succ k ih =>
    have hne : read s ≠ 0#32 := fun h => by simp [h] at hk
    have hread : (read s - 1#32).toNat = (read s).toNat - 1 := by bv_omega
    have hfirst := hc.exec_of_ne_zero a hne
    have hleft : read ((write s (read s - 1#32)).setPc (jmpTarget a)) = read s - 1#32 := by
      rw [hc.read_setPc, hc.read_write]
    have hrest := ih (s := (write s (read s - 1#32)).setPc (jmpTarget a)) (by rw [hleft]; omega)
    rw [hleft, hread, Nat.sub_sub, Nat.add_comm 1, hc.write_setPc, hc.write_write,
      State.setPc_pc, ite_self] at hrest
    rw [List.replicate_succ, execAll_cons_of_next hfirst, hrest, if_neg k.succ_ne_zero]
    rfl

/-- One instruction more, after instructions that complete. -/
theorem execAll_append_singleton {before : List Instr} {i : Instr} {s t u : State}
    (hbefore : execAll before s = .next t) (hi : exec i t = .next u) :
    execAll (before ++ [i]) s = .next u := by
  induction before generalizing s with
  | nil =>
    cases hbefore
    exact execAll_cons_of_next hi []
  | cons j js ih =>
    rw [execAll] at hbefore
    split at hbefore
    case h_1 v hj =>
      rw [List.cons_append, execAll_cons_of_next hj]
      exact ih hbefore
    all_goals cases hbefore

/-- Once more than the register's value: the last execution finds it zero and is not taken. -/
theorem IsCountdown.execAll_replicate_succ (hc : IsCountdown c read write) (a : BitVec 5)
    (s : State) :
    execAll (List.replicate ((read s).toNat + 1) (Instr.ofJmp c a)) s =
      .next ((write s 0#32).setPc
        (nextPc (if read s = 0#32 then s.pc else jmpTarget a))) := by
  have htaken := hc.execAll_replicate a (Nat.le_refl (read s).toNat)
  have hzero : (read s).toNat = 0 ↔ read s = 0#32 := BitVec.toNat_inj (y := 0#32)
  simp only [Nat.sub_self, hzero] at htaken
  rw [List.replicate_succ']
  refine execAll_append_singleton htaken (hc.exec_of_eq_zero a ?_)
  rw [hc.read_setPc, hc.read_write]

end Countdown

end Sys2Proof.Machine

namespace Sys2Proof.Certificates

open Sys2Proof.Machine

/-- Settles O11: X is a register counted down. -/
theorem jmpXDecDecrementsAndBranches : Obligations.JmpXDecDecrementsAndBranches :=
  ⟨fun _ => decode_of_jmpRow .xDecNonzero, fun a _ => isCountdown_x.exec_of_ne_zero a,
    fun a _ => isCountdown_x.exec_of_eq_zero a, fun a _ _ => isCountdown_x.execAll_replicate a,
    isCountdown_x.execAll_replicate_succ⟩

/-- Settles O13: Y is a register counted down. -/
theorem jmpYDecDecrementsAndBranches : Obligations.JmpYDecDecrementsAndBranches :=
  ⟨fun _ => decode_of_jmpRow .yDecNonzero, fun a _ => isCountdown_y.exec_of_ne_zero a,
    fun a _ => isCountdown_y.exec_of_eq_zero a, fun a _ _ => isCountdown_y.execAll_replicate a,
    isCountdown_y.execAll_replicate_succ⟩

/-- Settles O15: the bit test of a configured pin, and the one fault of the condition evaluator. -/
theorem jmpPinBranchesOnTheConfiguredPin : Obligations.JmpPinBranchesOnTheConfiguredPin :=
  ⟨fun _ => decode_of_jmpRow .pin, fun a _ _ h => exec_ofJmp_of_test (evaluate_pin_of_some h) a,
    fun a s h => (jump_fault_iff .pin a s .missingPin).mpr ⟨rfl, h, rfl⟩⟩

/-- Settles O9: the test that always holds. -/
theorem jmpAlwaysBranches : Obligations.JmpAlwaysBranches :=
  ⟨fun _ => decode_of_jmpRow .always,
    fun a s => exec_ofJmp_of_test (c := .always) (s := s) (p := True) rfl a⟩

/-- Settles O10: a test of X against zero. -/
theorem jmpNotXBranchesOnZero : Obligations.JmpNotXBranchesOnZero :=
  ⟨fun _ => decode_of_jmpRow .xZero, fun a _ => exec_ofJmp_of_test (c := .xZero) rfl a⟩

/-- Settles O12: a test of Y against zero. -/
theorem jmpNotYBranchesOnZero : Obligations.JmpNotYBranchesOnZero :=
  ⟨fun _ => decode_of_jmpRow .yZero, fun a _ => exec_ofJmp_of_test (c := .yZero) rfl a⟩

/-- Settles O14: the test is of the difference, so equality is the case not taken. -/
theorem jmpXNeYBranchesOnDifference : Obligations.JmpXNeYBranchesOnDifference := by
  refine ⟨fun _ => decode_of_jmpRow .xNeY, fun a s => ?_⟩
  rw [← ite_not]
  exact exec_ofJmp_of_test (c := .xNeY) rfl a

/-- Settles O16: `OSR` is not empty while its count is below 32. -/
theorem jmpNotOsreBranchesWhileBitsRemain : Obligations.JmpNotOsreBranchesWhileBitsRemain :=
  ⟨fun _ => decode_of_jmpRow .osrNotEmpty,
    fun a s => exec_ofJmp_of_test (evaluate_osrNotEmpty s) a⟩

end Sys2Proof.Certificates

/-!
SUPPORT. The statements about OUT (42_out.md): which words are which OUT, and what each destination
receives while the OSR shifts.
-/

namespace Sys2Proof.Machine

open Sys2Proof.Certificates

/-! ## The words of an OUT (R58) -/

/-- A word that matches the row of an OUT decodes to it, its count the effective one (R51, R53). The
words of a row differ in the count field and in the delay bits, which the decoder drops (R48). -/
theorem decode_of_outRow (d : OutDestination) {w : OpWord}
    (h : w &&& 0xE0E0#16 = ofFields 0b011#3 0#5 (destinationCode d) 0#5) :
    decode w = Instr.ofOut d (countOf w) := by
  rw [and_rowMask] at h
  obtain ⟨hclass, hsel⟩ := ofFields_class_sel_inj h
  rw [decode_of_class_out hclass, hsel, destinationOf_destinationCode, effectiveCount_opLo]

/-! ## The values an OUT writes, as the spec's arithmetic -/

/-- What stays in the OSR (R67, R68, R69), beside `shiftOut_fst_eq_extracted`, what leaves it. -/
theorem shiftOut_snd_eq_shifted (s : State) {n : Nat} (hn : n ≤ 32) :
    (shiftOut s.osr n s.cfg.shiftOsrRight).2 = shifted s n := by
  have hvalue : (shiftOut s.osr n s.cfg.shiftOsrRight).2.value.toNat =
      if s.cfg.shiftOsrRight then s.osr.value.toNat / 2 ^ n
        else s.osr.value.toNat * 2 ^ n % 2 ^ 32 := by
    cases s.cfg.shiftOsrRight with
    | true =>
      obtain ⟨-, hright, -⟩ := shiftOut_right s.osr n hn
      exact hright
    | false =>
      obtain ⟨-, hleft, -⟩ := shiftOut_left s.osr n
      exact hleft
  apply ShiftRegister.ext
  · rw [shifted, ← hvalue, BitVec.ofNat_toNat, BitVec.setWidth_eq]
  · exact shiftOut_count ..

/-- The extracted value has `n` bits. -/
theorem extracted_toNat_lt (s : State) {n : Nat} (hn : n ≤ 32) :
    (extracted s n).toNat < 2 ^ n := by
  rw [← shiftOut_fst_eq_extracted s hn]
  exact shiftOut_ext_lt s.osr n _ hn

/-- The masked merge of R101 and R105 is the old high part with the extracted value added below it:
both sides have the same bits. -/
theorem replaceLow_extracted (old : Word) (s : State) {n : Nat} (hn : n ≤ 32) :
    replaceLow old (extracted s n) n = lowReplaced old s n := by
  have hlt := extracted_toNat_lt s hn
  apply BitVec.eq_of_getLsbD_eq
  intro i hi
  rw [replaceLow_getLsbD old _ n i hn hlt, lowReplaced, BitVec.getLsbD_ofNat, decide_eq_true hi,
    Bool.true_and, Nat.mul_comm, Nat.testBit_two_pow_mul_add _ hlt, Nat.testBit_div_two_pow]
  split
  case isTrue => rfl
  case isFalse h => rw [Nat.sub_add_cancel (Nat.le_of_not_lt h), BitVec.getLsbD]

/-- A left `shift_in` of `n` bits into the empty register gives those bits and the count `n` (R71). -/
theorem shiftIn_zero_left {src : Word} {n : Nat} (hn : n ≤ 32) (hsrc : src.toNat < 2 ^ n) :
    shiftIn { value := 0#32, count := 0 } src n false = { value := src, count := n } := by
  apply ShiftRegister.ext
  · apply BitVec.eq_of_toNat_eq
    rw [shiftIn_left_value _ src hn, Nat.mod_eq_of_lt hsrc]
    simp
  · rw [shiftIn_count, saturate, Nat.zero_add, Nat.min_eq_right hn]

/-! ## What an OUT does (R100) -/

/-- Every OUT completes: the extracted value is routed and the OSR is the shifted one (R100, R109). -/
theorem exec_ofOut_eq (d : OutDestination) {n : Nat} (hn : n ≤ 32) (s : State) :
    exec (Instr.ofOut d n) s = .next ((route d (extracted s n) n s).setOsr (shifted s n)) := by
  rw [exec_ofOut, shiftOutTo_eq, shiftOut_fst_eq_extracted s hn, shiftOut_snd_eq_shifted s hn]

/-- The routing writes `PC + 1`, but for the destination `PC`, which takes the value (R106). -/
theorem route_pc (d : OutDestination) (ext : Word) (n : Nat) (s : State) :
    (route d ext n s).pc = if d = .pc then ext else s.pc + 1#32 := by
  cases d <;> rfl

end Sys2Proof.Machine

namespace Sys2Proof.Certificates

open Sys2Proof.Machine

/-- Settles O17: the masked merge is the spec's replacement of the low bits. -/
theorem outPinsReplacesTheLowBits : Obligations.OutPinsReplacesTheLowBits := by
  refine ⟨fun _ => decode_of_outRow .pins, fun n s _ hn => ?_⟩
  rw [← replaceLow_extracted s.pins s hn]
  exact exec_ofOut_eq .pins hn s

/-- Settles O18: the routing to X. -/
theorem outXReplacesX : Obligations.OutXReplacesX :=
  ⟨fun _ => decode_of_outRow .x, fun _ s _ hn => exec_ofOut_eq .x hn s⟩

/-- Settles O19: the routing to Y. -/
theorem outYReplacesY : Obligations.OutYReplacesY :=
  ⟨fun _ => decode_of_outRow .y, fun _ s _ hn => exec_ofOut_eq .y hn s⟩

/-- Settles O20: the routing to nowhere. -/
theorem outNullOnlyShiftsTheOsr : Obligations.OutNullOnlyShiftsTheOsr :=
  ⟨fun _ => decode_of_outRow .null, fun _ s _ hn => exec_ofOut_eq .null hn s⟩

/-- Settles O21: the masked merge is the spec's replacement of the low bits. -/
theorem outPindirsReplacesTheLowBits : Obligations.OutPindirsReplacesTheLowBits := by
  refine ⟨fun _ => decode_of_outRow .pindirs, fun n s _ hn => ?_⟩
  rw [← replaceLow_extracted s.pindirs s hn]
  exact exec_ofOut_eq .pindirs hn s

/-- Settles O22: the routing to PC, which is the one that does not advance it. -/
theorem outPcJumpsToTheExtractedValue : Obligations.OutPcJumpsToTheExtractedValue :=
  ⟨fun _ => decode_of_outRow .pc, fun _ s _ hn => exec_ofOut_eq .pc hn s⟩

/-- Settles O23: the routing to the ISR, and the extracted value's width for the `shift_in`. -/
theorem outIsrAssignsTheIsr : Obligations.OutIsrAssignsTheIsr :=
  ⟨fun _ => decode_of_outRow .isr, fun _ s _ hn =>
    ⟨exec_ofOut_eq .isr hn s, shiftIn_zero_left hn (extracted_toNat_lt s hn)⟩⟩

/-- Settles O24: EXEC is routed to nowhere, as NULL is. -/
theorem outExecDiscardsTheWord : Obligations.OutExecDiscardsTheWord :=
  ⟨fun _ => decode_of_outRow .exec, fun _ s _ hn =>
    ⟨exec_ofOut_eq .exec hn s, (exec_ofOut_eq .exec hn s).trans (exec_ofOut_eq .null hn s).symm⟩⟩

/-- Settles O25: no destination touches the shifted OSR, and only PC takes the value as its index. -/
theorem everyOutCompletesAndShifts : Obligations.EveryOutCompletesAndShifts :=
  fun d n s _ hn => ⟨_, exec_ofOut_eq d hn s, State.setOsr_osr .., route_pc d _ n s⟩

end Sys2Proof.Certificates

/-!
SUPPORT. The statements about the sequencer (43_sequencer.md): the phases of a step, what an instruction
can answer, and the pairs, the last state and the end of a run.
-/

namespace Sys2Proof

/-- The decoder rejects the words of the reserved rows, and passes on the word it rejects (R55). -/
theorem decodeResult_error_iff (w v : OpWord) :
    decodeResult w = .error (.unknownOpcode v) ↔ v = w ∧ (decode w).reserved = true := by
  by_cases hr : (decode w).reserved = true
  · simp [decodeResult, hr, eq_comm]
  · simp [decodeResult, hr]

namespace Machine

/-! ## The phases of a step (R120) -/

theorem step_of_fetch_error {s : State} {f : Fault} (hs : s.legal = true)
    (h : s.fetch = .error f) : step s = .fault f := by
  rw [step, if_pos hs, h]
  rfl

theorem fetch_of_getElem? {s : State} {w : OpWord} (h : s.program[s.pc.toNat]? = some w) :
    s.fetch = .ok w :=
  (memRead_ok_iff s.program s.pc w).mpr h

/-! ## A run, request by request -/

/-- A step that does not complete delivers nothing, and it is not the predicate that ends the run. -/
theorem runFrom_halted {stop : StopWhen} {n k : Nat} {s : State} (h : ∀ t, step s ≠ .next t) :
    (runFrom stop (n + 1) k s).pairs = [] ∧ (runFrom stop (n + 1) k s).last = s.toArchState ∧
      (runFrom stop (n + 1) k s).ending ≠ .stopped := by
  cases hstep : step s with
  | next t => exact absurd hstep (h t)
  | fault f => simp [runFrom_fault hstep]
  | refused r => simp [runFrom_refused hstep]

/-- The four ways a run goes on: nothing more is asked of it, its next pair stops it, its next pair is
followed by the rest of the run, or its next step does not complete. -/
theorem runFrom_induction {stop : StopWhen} {motive : Nat → Nat → State → Prop}
    (unrequested : ∀ k s, motive 0 k s)
    (stopped : ∀ n k s t, step s = .next t → stop k s.toArchState t.toArchState = true →
      motive (n + 1) k s)
    (continued : ∀ n k s t, step s = .next t → stop k s.toArchState t.toArchState = false →
      motive n (k + 1) t → motive (n + 1) k s)
    (halted : ∀ n k s, (∀ t, step s ≠ .next t) → motive (n + 1) k s)
    (n k : Nat) (s : State) : motive n k s := by
  induction n generalizing k s with
  | zero => exact unrequested k s
  | succ n ih =>
    by_cases hnext : ∃ t, step s = .next t
    · obtain ⟨t, ht⟩ := hnext
      cases hstop : stop k s.toArchState t.toArchState with
      | true => exact stopped n k s t ht hstop
      | false => exact continued n k s t ht hstop (ih (k + 1) t)
    · exact halted n k s (not_exists.mp hnext)

/-- The machine of a run is the same after a completed step: the program and the configuration stay. -/
theorem withArch_of_step {s t : State} (h : step s = .next t) (a : ArchState) :
    t.withArch a = s.withArch a := by
  obtain ⟨hprogram, hcfg⟩ := step_program_cfg h
  rw [State.withArch, State.withArch, hprogram, hcfg]

/-! ## The pairs of a run (R125) -/

theorem runFrom_pairs_step (stop : StopWhen) (n k : Nat) (s : State) :
    ∀ p ∈ (runFrom stop n k s).pairs, step (s.withArch p.1) = .next (s.withArch p.2) := by
  have hpair {s t : State} (h : step s = .next t) :
      step (s.withArch s.toArchState) = .next (s.withArch t.toArchState) := by
    rw [State.withArch_self, h, ← withArch_of_step h, State.withArch_self]
  induction n, k, s using runFrom_induction (stop := stop) with
  | unrequested => simp [runFrom_zero]
  | stopped n k s t hstep hstop => simpa [runFrom_stop hstep hstop] using hpair hstep
  | continued n k s t hstep hstop ih =>
    rw [runFrom_next hstep hstop, List.forall_mem_cons]
    exact ⟨hpair hstep, by simpa only [withArch_of_step hstep] using ih⟩
  | halted n k s hnext => simp [runFrom_halted hnext]

theorem runFrom_pairs_head (stop : StopWhen) (n k : Nat) (s : State) :
    ∀ p ∈ (runFrom stop n k s).pairs.head?, p.1 = s.toArchState := by
  cases n, k, s using runFrom_induction (stop := stop) with
  | unrequested => simp [runFrom_zero]
  | stopped n k s t hstep hstop => simp [runFrom_stop hstep hstop]
  | continued n k s t hstep hstop => simp [runFrom_next hstep hstop]
  | halted n k s hnext => simp [runFrom_halted hnext]

/-- Each pair starts where the one before it ended. -/
theorem runFrom_pairs_isChain (stop : StopWhen) (n k : Nat) (s : State) :
    (runFrom stop n k s).pairs.IsChain fun p q => p.2 = q.1 := by
  induction n, k, s using runFrom_induction (stop := stop) with
  | unrequested => simp [runFrom_zero]
  | stopped n k s t hstep hstop => simp [runFrom_stop hstep hstop]
  | continued n k s t hstep hstop ih =>
    rw [runFrom_next hstep hstop, List.isChain_cons]
    exact ⟨fun q hq => (runFrom_pairs_head stop n (k + 1) t q hq).symm, ih⟩
  | halted n k s hnext => simp [runFrom_halted hnext]

theorem runFrom_pairs_length_le (stop : StopWhen) (n k : Nat) (s : State) :
    (runFrom stop n k s).pairs.length ≤ n := by
  induction n, k, s using runFrom_induction (stop := stop) with
  | unrequested => simp [runFrom_zero]
  | stopped n k s t hstep hstop => simp [runFrom_stop hstep hstop]
  | continued n k s t hstep hstop ih =>
    rw [runFrom_next hstep hstop, List.length_cons]
    exact Nat.succ_le_succ ih
  | halted n k s hnext => simp [runFrom_halted hnext]

/-- The state the host holds is the second half of the last pair, or the initial state. -/
theorem runFrom_last (stop : StopWhen) (n k : Nat) (s : State) :
    (runFrom stop n k s).last =
      (((runFrom stop n k s).pairs.getLast?).map Prod.snd).getD s.toArchState := by
  induction n, k, s using runFrom_induction (stop := stop) with
  | unrequested => simp [runFrom_zero]
  | stopped n k s t hstep hstop => simp [runFrom_stop hstep hstop]
  | continued n k s t hstep hstop ih =>
    rw [runFrom_next hstep hstop, ih, List.getLast?_cons]
    cases (runFrom stop n (k + 1) t).pairs.getLast? <;> rfl
  | halted n k s hnext => simp [runFrom_halted hnext]

/-- A run with fewer pairs than requests that was not stopped is at a state whose step does not
complete. -/
theorem runFrom_last_not_next (stop : StopWhen) (n k : Nat) (s : State)
    (hlen : (runFrom stop n k s).pairs.length < n) (hend : (runFrom stop n k s).ending ≠ .stopped) :
    ∀ t, step (s.withArch (runFrom stop n k s).last) ≠ .next t := by
  induction n, k, s using runFrom_induction (stop := stop) with
  | unrequested => exact absurd hlen (Nat.not_lt_zero _)
  | stopped n k s t hstep hstop => exact absurd (by rw [runFrom_stop hstep hstop]) hend
  | continued n k s t hstep hstop ih =>
    rw [runFrom_next hstep hstop] at hlen hend ⊢
    rw [← withArch_of_step hstep]
    exact ih (Nat.lt_of_succ_lt_succ hlen) hend
  | halted n k s hnext => simpa [runFrom_halted hnext] using hnext

/-- More requests only add pairs at the end. -/
theorem runFrom_pairs_prefix (stop : StopWhen) (n m k : Nat) (s : State) :
    (runFrom stop n k s).pairs <+: (runFrom stop (n + m) k s).pairs := by
  induction n, k, s using runFrom_induction (stop := stop) with
  | unrequested => exact List.nil_prefix
  | stopped n k s t hstep hstop =>
    rw [Nat.succ_add, runFrom_stop hstep hstop, runFrom_stop hstep hstop]
  | continued n k s t hstep hstop ih =>
    rw [Nat.succ_add, runFrom_next hstep hstop, runFrom_next hstep hstop]
    exact (List.prefix_cons_inj _).mpr ih
  | halted n k s hnext =>
    rw [(runFrom_halted hnext).1]
    exact List.nil_prefix

/-! ## The stop predicate of a run (R126, R128) -/

theorem runFrom_pairs_ne_nil_of_stopped {stop : StopWhen} {n k : Nat} {s : State}
    (h : (runFrom stop n k s).ending = .stopped) : (runFrom stop n k s).pairs ≠ [] := by
  cases n, k, s using runFrom_induction (stop := stop) with
  | unrequested => cases h
  | stopped n k s t hstep hstop => simp [runFrom_stop hstep hstop]
  | continued n k s t hstep hstop => simp [runFrom_next hstep hstop]
  | halted n k s hnext => exact absurd h (runFrom_halted hnext).2.2

/-- The predicate is true of the pair it stops the run at, and of no pair before. -/
theorem runFrom_stop_iff (stop : StopWhen) (n k : Nat) (s : State) {j : Nat}
    {p : ArchState × ArchState} (hp : (runFrom stop n k s).pairs[j]? = some p) :
    stop (k + j) p.1 p.2 = true ↔
      j + 1 = (runFrom stop n k s).pairs.length ∧ (runFrom stop n k s).ending = .stopped := by
  induction n, k, s using runFrom_induction (stop := stop) generalizing j with
  | unrequested => simp [runFrom_zero] at hp
  | stopped n k s t hstep hstop =>
    rw [runFrom_stop hstep hstop] at hp ⊢
    obtain ⟨rfl, rfl⟩ : j = 0 ∧ (s.toArchState, t.toArchState) = p := by
      simpa [List.getElem?_singleton] using hp
    simp [hstop]
  | continued n k s t hstep hstop ih =>
    rw [runFrom_next hstep hstop] at hp ⊢
    cases j with
    | zero =>
      cases hp
      have hrest : (runFrom stop n (k + 1) t).ending = .stopped →
          (runFrom stop n (k + 1) t).pairs ≠ [] := runFrom_pairs_ne_nil_of_stopped
      simpa [hstop, eq_comm (a := 0)] using mt hrest
    | succ j =>
      rw [List.getElem?_cons_succ] at hp
      rw [List.length_cons, Nat.succ_inj, ← ih hp, Nat.add_right_comm, Nat.add_assoc]
  | halted n k s hnext => simp [runFrom_halted hnext] at hp

/-- Predicates that answer alike from the next evaluation on give the same run. -/
theorem runFrom_congr {stop stop' : StopWhen} (n k : Nat) (s : State)
    (h : ∀ j, k ≤ j → stop j = stop' j) : runFrom stop n k s = runFrom stop' n k s := by
  induction n, k, s using runFrom_induction (stop := stop) with
  | unrequested => rfl
  | stopped n k s t hstep hstop =>
    rw [runFrom_stop hstep hstop, runFrom_stop hstep (h k le_rfl ▸ hstop)]
  | continued n k s t hstep hstop ih =>
    rw [runFrom_next hstep hstop, runFrom_next hstep (h k le_rfl ▸ hstop),
      ih fun j hj => h j (Nat.le_of_succ_le hj)]
  | halted n k s hnext =>
    cases hstep : step s with
    | next t => exact absurd hstep (hnext t)
    | fault f => rw [runFrom_fault hstep, runFrom_fault hstep]
    | refused r => rw [runFrom_refused hstep, runFrom_refused hstep]

/-- A predicate true at its next evaluation whatever the pair makes the run one step, however much is
asked. -/
theorem runFrom_succ_of_stop {stop : StopWhen} {k : Nat} (h : ∀ a b, stop k a b = true) (n m : Nat)
    (s : State) : runFrom stop (n + 1) k s = runFrom stop (m + 1) k s := by
  cases hstep : step s with
  | next t => rw [runFrom_stop hstep (h _ _), runFrom_stop hstep (h _ _)]
  | fault f => rw [runFrom_fault hstep, runFrom_fault hstep]
  | refused r => rw [runFrom_refused hstep, runFrom_refused hstep]

/-- When the count is reached `j` evaluations after the next one, a run of `j + 1` steps is delivered
whole and stopped. -/
theorem runFrom_clockCyclesReached {n : BitVec 64} {j k : Nat} (hn : n.toNat = k + j) (m : Nat)
    {s t : State} (h : Sys2Proof.core.run (j + 1) s = .next t) :
    (runFrom (clockCyclesReached n) (j + 1 + m) k s).pairs.length = j + 1 ∧
      (runFrom (clockCyclesReached n) (j + 1 + m) k s).last = t.toArchState ∧
      (runFrom (clockCyclesReached n) (j + 1 + m) k s).ending = .stopped := by
  induction j generalizing k s with
  | zero =>
    obtain ⟨u, hu, hrest⟩ := core_run_succ 0 s t h
    cases hrest
    have hstop : clockCyclesReached n k s.toArchState t.toArchState = true := by
      simp [clockCyclesReached, hn]
    rw [Nat.succ_add, runFrom_stop hu hstop]
    exact ⟨rfl, rfl, rfl⟩
  | succ j ih =>
    obtain ⟨u, hu, hrest⟩ := core_run_succ (j + 1) s t h
    have hstop : clockCyclesReached n k s.toArchState u.toArchState = false := by
      simp [clockCyclesReached, hn]
    obtain ⟨hlen, hlast, hend⟩ := ih (k := k + 1) (by omega) hrest
    rw [Nat.succ_add, runFrom_next hu hstop]
    exact ⟨congrArg (· + 1) hlen, hlast, hend⟩

end Machine

end Sys2Proof

namespace Sys2Proof.Certificates

open Sys2Proof.Machine

/-- Settles O39: a JMP faults for the condition PIN only, an OUT never, a reserved row always. -/
theorem noInstructionIsRefused : Obligations.NoInstructionIsRefused := by
  intro i s
  rcases instr_cases i with ⟨c, a, rfl⟩ | ⟨d, n, rfl⟩ | hr
  · rw [exec_ofJmp]
    cases hj : jump c a s with
    | next t => exact .inl ⟨t, rfl⟩
    | fault f =>
      obtain ⟨rfl, hpin, rfl⟩ := (jump_fault_iff c a s f).mp hj
      exact .inr (.inl ⟨⟨a, rfl⟩, hpin, rfl⟩)
    | refused r => exact absurd hj (jump_not_refused c a s r)
  · exact .inl ⟨_, (exec_ofOut d n s).trans (shiftOutTo_eq d n s)⟩
  · exact .inr (.inr ⟨hr, exec_of_reserved hr s⟩)

/-- Settles O53: the facts about the pairs, each by induction along the run. -/
theorem aRunDeliversAChainOfPairs : Obligations.ARunDeliversAChainOfPairs := by
  refine ⟨fun stop n k s => ⟨runFrom_pairs_step stop n k s, fun p hp => ?_, fun j p q hp hq => ?_,
    runFrom_pairs_length_le stop n k s, runFrom_last stop n k s, fun hend => ?_,
    runFrom_last_not_next stop n k s⟩, runFrom_pairs_prefix, fun _ _ _ _ _ => rfl⟩
  · rw [← List.head?_eq_getElem?] at hp
    exact runFrom_pairs_head stop n k s p hp
  · obtain ⟨hj, rfl⟩ := List.getElem?_eq_some_iff.mp hp
    obtain ⟨hj', rfl⟩ := List.getElem?_eq_some_iff.mp hq
    exact (runFrom_pairs_isChain stop n k s).getElem j hj'
  · have hne := runFrom_pairs_ne_nil_of_stopped hend
    have hpos := List.length_pos_iff.mpr hne
    have hlast := List.getLast?_eq_some_getLast hne
    refine ⟨_, hlast, ?_⟩
    rw [Nat.add_sub_assoc hpos]
    rw [List.getLast?_eq_getElem?] at hlast
    exact (runFrom_stop_iff stop n k s hlast).mpr ⟨Nat.sub_add_cancel hpos, hend⟩

/-- Settles O54: the run's first evaluation is the 1st. -/
theorem theStoppingPairIsTheLast : Obligations.TheStoppingPairIsTheLast := by
  intro stop n s j p hp
  rw [← runFrom_stop_iff stop n 1 s hp, Nat.add_comm]

/-- Settles O55, by induction on the number of steps; `n = 0` and `n = 1` agree from the 1st evaluation
on. -/
theorem clockCyclesReachedRunsExactlyNSteps :
    Obligations.ClockCyclesReachedRunsExactlyNSteps := by
  refine ⟨fun n m s t hn h => ?_, fun m s => runFrom_congr m 1 s fun k hk => ?_⟩
  · obtain ⟨j, hj⟩ := Nat.exists_eq_add_of_le hn
    rw [hj, Nat.add_comm 1 j] at h ⊢
    exact runFrom_clockCyclesReached hj m h
  · funext a b
    simp [clockCyclesReached, hk]

/-- Settles O40: the fetch by the length of the program, and the decoder's contract on its word. -/
theorem stepRunsTheDecodedInstruction : Obligations.StepRunsTheDecodedInstruction := by
  intro s hs
  have hexec {w : OpWord} (hw : s.program[s.pc.toNat]? = some w) : step s = exec (decode w) s :=
    step_eq_exec_decode hs (fetch_of_getElem? hw)
  refine ⟨fun hlen => step_of_fetch_error hs (memRead_of_length_le hlen), fun w v hw hv => ?_,
    fun w i hw hi => ?_, fun w hw => hexec hw⟩
  · obtain ⟨rfl, hr⟩ := (decodeResult_error_iff w v).mp hv
    refine ⟨rfl, ?_⟩
    rw [hexec hw, exec_of_reserved hr, encode_decode_of_reserved hr]
  · obtain ⟨rfl, -⟩ := (decodeResult_ok_iff w i).mp hi
    exact ⟨decode_wellFormed w, hexec hw⟩

/-- Settles O56: the predicate of the single step is true at its first evaluation. -/
theorem singleStepIsOneCycle : Obligations.SingleStepIsOneCycle :=
  ⟨fun _ _ h => runFrom_stop h rfl, fun _ _ h => runFrom_fault h,
    fun s m => runFrom_succ_of_stop (fun _ _ => rfl) m 0 s⟩

end Sys2Proof.Certificates

/-!
SUPPORT. The statements about the faults (60_exceptions.md): which step raises which fault and in what
order, their numbers and families, and the run that ends in one.
-/

namespace Sys2Proof.Machine

open Sys2Proof.Certificates

/-! ## The words of a row -/

theorem opSel_toNat (w : OpWord) : (opSel w).toNat = w.toNat / 2 ^ 5 % 8 := by
  rw [opSel, BitVec.extractLsb'_toNat, Nat.shiftRight_eq_div_pow]

/-- A word decodes to a JMP with condition `c` exactly when it matches that row of the table (R58). -/
theorem decode_eq_ofJmp_iff (c : Condition) (w : OpWord) :
    (∃ a, decode w = Instr.ofJmp c a) ↔
      w &&& 0xE0E0#16 = ofFields 0b000#3 0#5 (conditionCode c) 0#5 := by
  refine ⟨fun ⟨a, ha⟩ => ?_, fun h => ⟨_, decode_of_jmpRow c h⟩⟩
  have hrow := decode_matches_row w
  rw [ha, opcodeRow_ofJmp] at hrow
  exact hrow

/-- A word matches the row of a JMP exactly when its class is 0 and its selector is the condition's
number (R47, R50). -/
theorem and_rowMask_eq_jmpRow_iff (c : Condition) (w : OpWord) :
    w &&& 0xE0E0#16 = ofFields 0b000#3 0#5 (conditionCode c) 0#5 ↔
      classOf w = 0 ∧ w.toNat / 2 ^ 5 % 8 = conditionNumber c := by
  rw [and_rowMask, ← opSel_toNat, ← conditionCode_toNat, BitVec.toNat_inj]
  refine Iff.trans ⟨ofFields_class_sel_inj, ?_⟩ (and_congr_left' (opClass_eq_iff w 0b000#3))
  rintro ⟨hclass, hsel⟩
  rw [hclass, hsel]

/-! ## When an instruction faults -/

theorem ofJmp_eq_jmpPin_iff (c : Condition) (a : BitVec 5) :
    (∃ a', Instr.ofJmp c a = .jmpPin a') ↔ c = .pin := by
  cases c <;> simp [Instr.ofJmp]

theorem ofOut_ne_jmpPin (d : OutDestination) (n : Nat) (a : BitVec 5) :
    Instr.ofOut d n ≠ .jmpPin a := by
  cases d <;> exact Instr.noConfusion

/-- The executor faults for a JMP PIN with no pin configured (R143) and for a reserved row (R142). -/
theorem exec_fault_iff (i : Instr) (s : State) (f : Fault) :
    exec i s = .fault f ↔ (i.reserved = true ∧ f = .unknownOpcode (encode i)) ∨
      ((∃ a, i = .jmpPin a) ∧ s.cfg.jmpPin = none ∧ f = .missingPin) := by
  rcases instr_cases i with ⟨c, a, rfl⟩ | ⟨d, n, rfl⟩ | hr
  · rw [exec_ofJmp, jump_fault_iff, ofJmp_eq_jmpPin_iff]
    simp
  · simp [shiftOutTo_eq, ofOut_ne_jmpPin]
  · have hpin : ¬ ∃ a, i = .jmpPin a := by
      rintro ⟨a, rfl⟩
      cases hr
    simp [exec_of_reserved hr, hr, hpin, eq_comm]

/-! ## When a step faults -/

/-- A legal state with no word at `PC` faults in the fetch (R141). -/
theorem step_of_length_le {s : State} (hs : s.legal = true)
    (h : s.program.length ≤ s.pc.toNat) : step s = .fault (.programCounterOutOfRange s.pc) :=
  step_of_fetch_error hs (memRead_of_length_le h)

/-- A legal state with a word at `PC` faults for a word of a reserved class (R142), and for a JMP PIN
with no pin configured (R143). -/
theorem step_fault_iff_of_word {s : State} {w : OpWord} (hs : s.legal = true)
    (hw : s.program[s.pc.toNat]? = some w) (f : Fault) :
    step s = .fault f ↔ (ReservedClass w ∧ f = .unknownOpcode w) ∨
      (w &&& 0xE0E0#16 = 0x00C0#16 ∧ s.cfg.jmpPin = none ∧ f = .missingPin) := by
  have hreserved : (decode w).reserved = true ∧ f = .unknownOpcode (encode (decode w)) ↔
      ReservedClass w ∧ f = .unknownOpcode w := by
    rw [reservedClass_iff]
    exact and_congr_right fun hr => by rw [encode_decode_of_reserved hr]
  have hpin : (∃ a, decode w = .jmpPin a) ↔ w &&& 0xE0E0#16 = 0x00C0#16 :=
    decode_eq_ofJmp_iff .pin w
  rw [step_eq_exec_decode hs (fetch_of_getElem? hw), exec_fault_iff, hreserved, hpin]

/-- A step from a legal state that raises no fault completes (R149): only a state that is not legal is
refused (R26). -/
theorem step_next_of_not_fault {s : State} (hs : s.legal = true)
    (h : ∀ f, step s ≠ .fault f) : ∃ t, step s = .next t := by
  cases hstep : step s with
  | next t => exact ⟨t, rfl⟩
  | fault f => exact absurd hstep (h f)
  | refused r => simp [((step_refused_iff s r).mp hstep).2] at hs

theorem step_keeps_legal {s t : State} (h : step s = .next t) : t.legal = true := by
  obtain ⟨hs, w, -, -, hexec⟩ := step_next h
  exact exec_keeps_legal (decode_wellFormed w) hs hexec

/-! ## A run that ends in a fault (R145) -/

/-- A run ends in a fault exactly when a further step was asked for, the predicate has not stopped the
run, and the step of the last state raises that fault. -/
theorem runFrom_faulted_iff (stop : StopWhen) (n k : Nat) (s : State) (f : Fault) :
    (runFrom stop n k s).ending = .faulted f ↔
      (runFrom stop n k s).pairs.length < n ∧ (runFrom stop n k s).ending ≠ .stopped ∧
        step (s.withArch (runFrom stop n k s).last) = .fault f := by
  induction n, k, s using runFrom_induction (stop := stop) with
  | unrequested => simp [runFrom_zero]
  | stopped n k s t hstep hstop => simp [runFrom_stop hstep hstop]
  | continued n k s t hstep hstop ih =>
    rw [runFrom_next hstep hstop, List.length_cons, Nat.succ_lt_succ_iff, ← withArch_of_step hstep]
    exact ih
  | halted n k s hnext =>
    cases hstep : step s with
    | next t => exact absurd hstep (hnext t)
    | fault e => simp [runFrom_fault hstep, hstep]
    | refused r => simp [runFrom_refused hstep, hstep]

end Sys2Proof.Machine

namespace Sys2Proof.Certificates

open Sys2Proof.Machine

/-- Settles O7: of the two faults a word can raise, the one that is not JMP PIN's. -/
theorem unknownOpcodeExactlyOnReservedClasses :
    Obligations.UnknownOpcodeExactlyOnReservedClasses := by
  intro s w v hs hw
  rw [step_fault_iff_of_word hs hw]
  simp [and_comm]

/-- Settles O42: a word at `PC` raises other faults only, and a completed step leaves a legal state. -/
theorem outOfRangeFaultsAtTheFollowingFetch : Obligations.OutOfRangeFaultsAtTheFollowingFetch := by
  refine ⟨fun s a hs => ?_, fun s t h hlen => step_of_length_le (step_keeps_legal h) hlen⟩
  rcases Nat.lt_or_ge s.pc.toNat s.program.length with hlt | hge
  · rw [step_fault_iff_of_word hs (List.getElem?_eq_getElem hlt)]
    simp [Nat.not_le.mpr hlt]
  · simp [step_of_length_le hs hge, hge, eq_comm]

/-- Settles O43: without a word the fetch faults; with one, the row of JMP PIN is class 0 and selector
6. -/
theorem missingPinExactlyWhenJmpPinExecutes : Obligations.MissingPinExactlyWhenJmpPinExecutes := by
  intro s hs
  rcases Nat.lt_or_ge s.pc.toNat s.program.length with hlt | hge
  · have hw := List.getElem?_eq_getElem hlt
    have hrow := and_rowMask_eq_jmpRow_iff .pin s.program[s.pc.toNat]
    rw [step_fault_iff_of_word hs hw, hw]
    simp only [reduceCtorEq, and_false, false_or, and_true, Option.some.injEq, exists_eq_left']
    exact and_comm.trans (and_congr_right' hrow)
  · simp [step_of_length_le hs hge, List.getElem?_eq_none hge]

/-- Settles O44: the causes of the three faults, and completion where there is none of them. -/
theorem faultPriorityAndCompletion : Obligations.FaultPriorityAndCompletion := by
  refine fun s hs => ⟨step_of_length_le hs, fun w hw => ?_⟩
  have hfault := step_fault_iff_of_word hs hw
  refine ⟨fun hr => (hfault _).mpr (.inl ⟨hr, rfl⟩),
    fun _ hrow hpin => (hfault _).mpr (.inr ⟨hrow, hpin, rfl⟩),
    fun hr hcompletes => step_next_of_not_fault hs fun f hf => ?_⟩
  rcases (hfault f).mp hf with ⟨hres, -⟩ | ⟨hrow, hpin, -⟩
  · exact hr hres
  · exact hcompletes.elim (fun h => h hrow) (fun h => h hpin)

/-- Settles O57: a run's fault is that of the step from its last state, by induction along the run. -/
theorem faultsArePrecise : Obligations.FaultsArePrecise := by
  refine ⟨fun stop n k s f h => ?_, fun stop n k s hlen hend => ?_,
    fun stop n k s f h => runFrom_fault h⟩
  · obtain ⟨-, -, hstep⟩ := (runFrom_faulted_iff stop n k s f).mp h
    exact ⟨hstep, runFrom_last stop n k s⟩
  · refine ⟨runFrom_last_not_next stop n k s hlen hend, fun f => ?_⟩
    rw [runFrom_faulted_iff]
    exact ⟨fun ⟨_, _, hstep⟩ => hstep, fun hstep => ⟨hlen, hend, hstep⟩⟩

/-- Settles O46, fault by fault. -/
theorem faultCodesAndFamilies : Obligations.FaultCodesAndFamilies := by
  refine ⟨fun _ => rfl, fun _ => rfl, rfl, fun f => ?_, fun _ => rfl, fun _ => rfl, rfl⟩
  cases f with
  | programCounterOutOfRange a => exact (by decide : 1#2 ≠ 0#2)
  | unknownOpcode w => exact (by decide : 2#2 ≠ 0#2)
  | missingPin => exact (by decide : 3#2 ≠ 0#2)

end Sys2Proof.Certificates

/-!
SUPPORT. The statements about reset and boot (70_reset_and_hazards.md): the values at reset, what a program
can see of them, and what a state needs for its next step to complete.
-/

namespace Sys2Proof.Machine

open Sys2Proof.Certificates

/-! ## When a step completes (R169) -/

/-- An instruction can complete unless its class is reserved or it is a JMP PIN with no pin configured. -/
theorem completes_iff (i : Instr) (cfg : RunConfig) :
    Instr.completes i cfg = true ↔
      ¬ i.reserved = true ∧ ((∃ a, i = .jmpPin a) → cfg.jmpPin ≠ none) := by
  unfold Instr.completes
  split
  case h_1 a => simp [Instr.reserved, Option.isSome_iff_ne_none]
  case h_2 hpin =>
    have hnot : ¬ ∃ a, i = .jmpPin a := fun ⟨a, ha⟩ => hpin a ha
    simp [hnot]

/-- The executor completes exactly where `completes` says so: it refuses nothing, and its faults are the
two that `completes` rules out. -/
theorem exec_next_iff_completes (i : Instr) (s : State) :
    (∃ t, exec i s = .next t) ↔ Instr.completes i s.cfg = true := by
  have hfault := exec_fault_iff i s
  rw [completes_iff]
  constructor
  · rintro ⟨t, ht⟩
    have hnone : ∀ f, exec i s ≠ .fault f := by simp [ht]
    exact ⟨fun hr => hnone _ ((hfault _).mpr (.inl ⟨hr, rfl⟩)),
      fun hjmp hpin => hnone _ ((hfault _).mpr (.inr ⟨hjmp, hpin, rfl⟩))⟩
  · rintro ⟨hr, hpin⟩
    cases hexec : exec i s with
    | next t => exact ⟨t, rfl⟩
    | fault f =>
      rcases (hfault f).mp hexec with ⟨hres, -⟩ | ⟨hjmp, hnone, -⟩
      · exact absurd hres hr
      · exact absurd hnone (hpin hjmp)
    | refused r => exact absurd hexec (exec_not_refused i s r)

theorem ready_iff (s : State) :
    s.ready = true ↔ ∃ w, s.fetch = .ok w ∧ Instr.completes (decode w) s.cfg = true := by
  unfold State.ready
  cases s.fetch <;> simp

/-! ## A JMP whose condition writes nothing -/

theorem exec_ofJmp_taken {c : Condition} {s : State} (h : evaluate c s = .ok (true, s))
    (a : BitVec 5) : exec (Instr.ofJmp c a) s = .next { s with pc := a.setWidth 32 } := by
  rw [exec_ofJmp, jump_of_evaluate h]
  rfl

theorem exec_ofJmp_not_taken {c : Condition} {s : State} (h : evaluate c s = .ok (false, s))
    (a : BitVec 5) : exec (Instr.ofJmp c a) s = .next { s with pc := s.pc + 1#32 } := by
  rw [exec_ofJmp, jump_of_evaluate h]
  rfl

/-- With no pin set, the condition PIN is false for every configured pin (R88). -/
theorem evaluate_pin_of_pins_zero {s : State} (hpins : s.pins = 0#32)
    (h : s.cfg.jmpPin ≠ none) : evaluate .pin s = .ok (false, s) := by
  obtain ⟨p, hp⟩ := Option.ne_none_iff_exists'.mp h
  simp [evaluate_pin_of_some hp, hpins]

/-! ## OUTs of zeros -/

/-- Every register that holds data is zero, and so are the values of both shift registers. -/
structure DataZero (s : State) : Prop where
  x : s.x = 0#32
  y : s.y = 0#32
  pins : s.pins = 0#32
  pindirs : s.pindirs = 0#32
  osr_value : s.osr.value = 0#32
  isr_value : s.isr.value = 0#32

theorem dataZero_start (p : List OpWord) (cfg : RunConfig) : DataZero (State.start p {} cfg) :=
  ⟨rfl, rfl, rfl, rfl, rfl, rfl⟩

/-- A full register's count after `n` bits have left it (R69). -/
theorem zero_saturate {n : Nat} (h : n ≤ 32) : saturate 0 n = n := by
  rw [saturate, Nat.zero_add, Nat.min_eq_right h]

/-- A zero value shifts out zeros and stays zero, in both directions. -/
theorem shiftOut_of_value_zero {sr : ShiftRegister} (h : sr.value = 0#32) (n : Nat) (right : Bool) :
    shiftOut sr n right = (0#32, { value := 0#32, count := saturate sr.count n }) := by
  cases right <;> simp [shiftOut, shr32, shl32, h]

theorem replaceLow_zero_zero (n : Nat) : replaceLow 0#32 0#32 n = 0#32 := by
  simp [replaceLow]

/-- An OUT from an OSR of value zero routes zero, and of the OSR changes the count only. -/
theorem exec_ofOut_of_osr_value_zero {s : State} (h : s.osr.value = 0#32) (d : OutDestination)
    (n : Nat) : exec (Instr.ofOut d n) s =
      .next ((route d 0#32 n s).setOsr { value := 0#32, count := saturate s.osr.count n }) := by
  rw [exec_ofOut, shiftOutTo_eq, shiftOut_of_value_zero h]

/-- Where the data are zero, an OUT writes `PC`, the OSR's count and, for OUT ISR, the ISR's. -/
theorem DataZero.exec_ofOut {s : State} (hs : DataZero s) (d : OutDestination) (n : Nat) :
    exec (Instr.ofOut d n) s =
      .next { s with pc := if d = .pc then 0#32 else s.pc + 1#32
                     osr := { value := 0#32, count := saturate s.osr.count n }
                     isr := if d = .isr then { value := 0#32, count := n } else s.isr } := by
  rw [exec_ofOut_of_osr_value_zero hs.osr_value, Host.Outcome.next.injEq]
  have hpins : replaceLow s.pins 0#32 n = s.pins := hs.pins ▸ replaceLow_zero_zero n
  have hpindirs : replaceLow s.pindirs 0#32 n = s.pindirs := hs.pindirs ▸ replaceLow_zero_zero n
  cases d with
  | pins => rw [route, hpins]; rfl
  | x => rw [route, ← hs.x]; rfl
  | y => rw [route, ← hs.y]; rfl
  | pindirs => rw [route, hpindirs]; rfl
  | _ => rfl

theorem DataZero.exec_ofOut_keeps {s t : State} {d : OutDestination} {n : Nat} (hs : DataZero s)
    (h : exec (Instr.ofOut d n) s = .next t) : DataZero t := by
  rw [hs.exec_ofOut, Host.Outcome.next.injEq] at h
  subst h
  refine ⟨hs.x, hs.y, hs.pins, hs.pindirs, rfl, ?_⟩
  dsimp only
  split
  · rfl
  · exact hs.isr_value

/-! ## Instructions one after another -/

/-- What every instruction of a list keeps holds after the list. -/
theorem execAll_keeps {P : State → Prop} {is : List Instr}
    (hkeeps : ∀ i ∈ is, ∀ {s t}, P s → exec i s = .next t → P t) {s t : State} (hs : P s)
    (h : execAll is s = .next t) : P t := by
  induction is generalizing s with
  | nil =>
    cases h
    exact hs
  | cons i is ih =>
    rw [execAll] at h
    split at h
    case h_1 u hu =>
      obtain ⟨hi, his⟩ := List.forall_mem_cons.mp hkeeps
      exact ih his (hi hs hu) h
    all_goals cases h

end Sys2Proof.Machine

namespace Sys2Proof.Certificates

open Sys2Proof.Machine

/-- Settles O45: a word at `PC` is executed, and the executor completes where `completes` says so. -/
theorem readyStatesAreThoseThatStep : Obligations.ReadyStatesAreThoseThatStep := by
  intro s
  rw [ready_iff]
  constructor
  · rintro ⟨t, ht⟩
    obtain ⟨hlegal, w, hfetch, -, hexec⟩ := step_next ht
    exact ⟨hlegal, w, hfetch, (exec_next_iff_completes _ s).mp ⟨t, hexec⟩⟩
  · rintro ⟨hlegal, w, hfetch, hcompletes⟩
    rw [step_eq_exec_decode hlegal hfetch]
    exact (exec_next_iff_completes _ s).mpr hcompletes

/-- Settles O51: the conditions evaluated at reset, and the zeros that no OUT of zeros changes, along any
list of OUTs. -/
theorem whatAProgramSeesFromReset : Obligations.WhatAProgramSeesFromReset := by
  intro p cfg s hs
  obtain rfl : s = State.start p {} cfg := hs
  have hzero := dataZero_start p cfg
  refine ⟨fun addr => ⟨exec_ofJmp_taken (c := .xZero) rfl addr,
    exec_ofJmp_taken (c := .yZero) rfl addr, exec_ofJmp_taken (c := .osrNotEmpty) rfl addr,
    exec_ofJmp_not_taken (c := .xDecNonzero) rfl addr,
    exec_ofJmp_not_taken (c := .yDecNonzero) rfl addr,
    exec_ofJmp_not_taken (c := .xNeY) rfl addr,
    fun hpin => (jump_fault_iff .pin addr _ .missingPin).mpr ⟨rfl, hpin, rfl⟩,
    fun hpin => exec_ofJmp_not_taken (evaluate_pin_of_pins_zero rfl hpin) addr⟩,
    fun d n _ hn => ?_, fun outs _ => ?_⟩
  · have hcount : saturate (State.start p {} cfg).osr.count n = n := zero_saturate hn
    have hout := hzero.exec_ofOut d n
    rw [hcount] at hout
    exact hout
  · obtain ⟨t, ht, hcount⟩ := execAll_ofOut_next outs (s := State.start p {} cfg) (Nat.zero_le 32)
    have hkeeps : ∀ i ∈ outs.map fun o => Instr.ofOut o.1 o.2, ∀ {s t},
        DataZero s → exec i s = .next t → DataZero t := by
      intro i hi
      obtain ⟨o, -, rfl⟩ := List.mem_map.mp hi
      exact DataZero.exec_ofOut_keeps
    have htzero := execAll_keeps hkeeps hzero ht
    refine ⟨t, ht, ShiftRegister.ext htzero.osr_value ?_, htzero.x, htzero.y, htzero.pins,
      htzero.pindirs, htzero.isr_value⟩
    rw [hcount]
    exact congrArg (min 32) (Nat.zero_add _)

/-- Settles O50: `State.reset` writes out the values that are the defaults of the seven fields, which a
start with nothing supplied takes. -/
theorem resetStateIsAllZero : Obligations.ResetStateIsAllZero :=
  ⟨rfl, rfl, rfl, rfl, rfl, rfl, rfl, rfl⟩

end Sys2Proof.Certificates

/-!
SUPPORT. The words the spec writes out (30_encoding.md rule R61, 95_test_vectors.md), read back from the
instructions that encode to them.
-/

namespace Sys2Proof.Certificates

/-- Settles O1: a word with no delay bits is the encoding of its instruction, which the decoder reads
back; 0x7F23 is 0x6023 but for its delay bits (R48), and 0xA042 is a word of the reserved class 5. -/
theorem writtenOutWordsDecode : Obligations.WrittenOutWordsDecode := by
  have houtX : decode 0x6023#16 = .outX 3 := decode_encode (i := .outX 3) rfl
  refine ⟨decode_encode (i := .outPindirs 3) rfl, houtX, decode_encode (i := .outIsr 5) rfl,
    decode_encode (i := .outPins 32) rfl, decode_encode (i := .jmpNotX 3#5) rfl,
    decode_encode (i := .jmpNotOsre 9#5) rfl, ?_,
    decodeResult_encode_of_reserved (i := .reserved101 0x42#13) rfl⟩
  have hdelay : decode 0x6023#16 = decode 0x7F23#16 :=
    decode_and_delayMask (w := 0x7F23#16) (by decide)
  rw [← hdelay, houtX]

end Sys2Proof.Certificates
